-- ==== Sys2Proof/Word.lean ====
section
/-! DEFINITION. The values the core works on: words, Blocks, Halfblocks, Keys, Keysets, frames, the
session's direction and the three half registers (00_scope.md R7, 10_state.md R11 to R16,
40_block_algebra.md R55, R56, 30_encoding.md R40). -/

namespace Sys2Proof

/-- One byte (an entry of the SBox, a byte of a frame). -/
abbrev Byte := BitVec 8

/-- Sixteen ordered words of `w` bits, `b[0]` to `b[15]` (R7, R55). -/
abbrev Blk (w : Nat) := Vector (BitVec w) 16

/-- A Block: 512 bits, 16 words of 32 bits (R55). -/
abbrev Block := Blk 32

/-- A Halfblock: 256 bits, 16 words of 16 bits, the decided `HALF_WORD_BITS` (R56). The datapath takes any
word width (`Params.halfWordBits`). -/
abbrev Halfblock := Blk 16

/-- A Key is a Block with no extra invariants (R11, R135). -/
abbrev Key := Block

/-- A Keyset: exactly 64 Keys, indexed 0..63 (R5 `N_KEYS`, R11). -/
abbrev Keyset := Vector Key 64

/-- A frame of 520 bits, held as its 65 bytes `B[0]` to `B[64]` (R40, R41). -/
abbrev Frame := Vector Byte 65

/-- The direction of a session (R13): `DIR = 0` is Encipher, `DIR = 1` is Decipher. -/
inductive Direction where
  | encipher
  | decipher
deriving DecidableEq, Repr

/-- The way of a bit rotation, for the parameters that leave it open (R6 `EXP_ROT`, R133 `R.ROT`). -/
inductive Turn where
  | left
  | right
deriving DecidableEq, Repr

/-- What the SBox is applied to (R6 `SBOX_GRAN`): each byte of a Block, or each of its nibbles. -/
inductive Grain where
  | byte
  | nibble
deriving DecidableEq, Repr

/-- Which end of a value the first drawn bit goes to (R132 `R.ASSEMBLE`). -/
inductive BitOrder where
  | firstIsMost
  | firstIsLeast
deriving DecidableEq, Repr

/-- The halves `L`, `R` and the scratch half `T` of R16, of 16 words of `w` bits each. -/
structure Halves (w : Nat) where
  l : Blk w
  r : Blk w
  t : Blk w
deriving DecidableEq, Repr

/-- The errors the core answers with (R151): the only two. -/
inductive CoreError where
  | illegal
  | notLive
deriving DecidableEq, Repr

/-- The conditions the spec names outside the core (R155, R156) and the one parse the spec leaves
without a meaning (R31). -/
inductive HostError where
  /-- A string or byte stream of the wrong length (R31, R155, R156). -/
  | invalidArgument (length : Nat)
  /-- A character that is neither `0` nor `1`: the parse has no meaning there (R31). -/
  | badCharacter
  /-- A key file that cannot be opened (R137, R156). -/
  | ioError
deriving DecidableEq, Repr

end Sys2Proof
end

