-- ==== Sys2Proof/Machine/Halving.lean ====
section
/-! DEFINITION. The split of a Block into two Halfblocks by its binary string, and the recombination
(41_sbox_expand_reduce.md section 4). -/

namespace Sys2Proof.Machine

/-- The 16 half words of eight 32-bit words of `b` from word `first` on, high half first (R87). -/
def halfFrom (b : Block) (first : Nat) : Halfblock :=
  Vector.ofFn fun k =>
    if k.val % 2 = 0 then b[(first + k.val / 2) % 16].extractLsb' 16 16
    else b[(first + k.val / 2) % 16].extractLsb' 0 16

/-- `Split(b)`: `L` from words 0 to 7, `R` from words 8 to 15 (R87). -/
def split (b : Block) : Halfblock × Halfblock := (halfFrom b 0, halfFrom b 8)

/-- Word `j` of the eight words made of a Halfblock's pairs of words (R88). -/
def pairWord (h : Halfblock) (j : Nat) : BitVec 32 := h[(2 * j) % 16] ++ h[(2 * j + 1) % 16]

/-- `Combine(x, y)`: the inverse of `Split` (R88). -/
def combine (x y : Halfblock) : Block :=
  Vector.ofFn fun i => if i.val < 8 then pairWord x i.val else pairWord y (i.val - 8)

end Sys2Proof.Machine
end

