-- ==== Sys2Proof/Config.lean ====
section
/-! DEFINITION. What an implementation fixes: the constants of 00_scope.md R5, the parameter record
`P` of R6, the one open table `P.SBOX` (no body: nothing can prove a value of it), and the host
parameters of file 45. -/

namespace Sys2Proof

/-- `SCHED_MIX` (R5). -/
def Config.schedMix : Nat := 3

/-- `P.SBOX` (R6, R80): the device's substitution table. GC prints no entry, so it is a free value,
a function of the index byte alone that never changes (R18). Log entry 1. -/
opaque Config.sbox : Byte → Byte

/-- `SPLIT_LAYOUT`: how a Block maps to the Halfblocks L and R of `w`-bit words, and back (R6, R87, R88). -/
structure SplitLayout (w : Nat) where
  split : Block → Blk w × Blk w
  combine : Blk w → Blk w → Block

/-- The two laws R89 states of a layout: split and combine undo each other. -/
def SplitLayout.lawful {w : Nat} (y : SplitLayout w) : Prop :=
  (∀ b, y.combine (y.split b).1 (y.split b).2 = b) ∧ ∀ l r, y.split (y.combine l r) = (l, r)

/-- The decided layout: the binary string cut in the middle (D16). -/
def Config.byBinaryString : SplitLayout 16 := { split := Machine.split, combine := Machine.combine }

/-- The parameter record `P` of R6, an argument of every datapath function and of the step function (R18,
R121). Fields that need no other field have their decided value as default; `Config.decided` decides
all but the SBox. -/
structure Params where
  /-- `HALF_WORD_BITS`: the width of a Halfblock word (D9). Log entry 2. -/
  halfWordBits : Nat
  /-- `ROT_STEP`: positions moved by one row, column or cell rotation (D10). -/
  rotStep : Nat := 1
  /-- `BITROT_STEP`: bits moved by one whole-value bit rotation (D11). -/
  bitRotStep : Nat := 1
  /-- `N_EXP`: self-multiplications in ExpansionFunction (D14). -/
  nExp : Nat := 3
  /-- `EXP_ROT`: direction of the bit rotation in ExpansionFunction (D14). -/
  expRot : Turn := .right
  /-- `REDUCE_MOD`: modulus of ReductionFunction (D13). -/
  reduceMod : Nat := 65536
  /-- `SBOX_GRAN`: what the table is applied to (D15). Log entry 18. -/
  sboxGran : Grain := .byte
  /-- `SBOX`: the 256 entries, by index (D15). -/
  sbox : Byte → Byte
  /-- `SPLIT_LAYOUT`: by binary string (D16). -/
  splitLayout : SplitLayout halfWordBits
  /-- `FINAL_SWAP`: halves recombined as (R, L) after round 63 (D17). -/
  finalSwap : Bool := true
  /-- `IV_TEMP_NETWORK`: the IV is computed on a temporary network (D18). -/
  ivTempNetwork : Bool := true
  /-- `REKEY_KEEPS_LAST`: `REKEY` leaves the chaining value unchanged (D19). -/
  rekeyKeepsLast : Bool := true

/-- Every parameter at the value R6 decides, for a given SBox. -/
abbrev Config.decided (sbox : Byte → Byte) : Params :=
  { halfWordBits := 16, sbox := sbox, splitLayout := Config.byBinaryString }

/-- The device: every parameter at the value R6 decides, the SBox open. -/
abbrev Config.device : Params := Config.decided Config.sbox

/-- The open parameters of the host procedures of file 45 (R126, R128, R131 to R133; 92 section 4).
No value of any of them is decided: every host procedure takes the record as an argument. -/
structure HostParams where
  /-- `H.HASH_INIT`: initial `hashsum` (R126). -/
  hashInit : Block
  /-- `H.HASH_CTOR_KEY`: construction key of the hash's cipher (R126). -/
  hashCtorKey : Key
  /-- `H.LEN_BLOCK`: the final Block for a message of so many bytes (R128). -/
  lenBlock : Nat → Block
  /-- `H.EMPTY_HAS_BLOCK`: whether an empty message has a data block (R128). -/
  emptyHasBlock : Bool
  /-- Whether a message of one or more whole 64-byte chunks gets an extra all-zero block: R128 names the
  point as open and gives it no letter. -/
  fullHasExtra : Bool
  /-- `R.BIT_AT`: which bit of `Num(hashsum)` a cursor value names (R131). -/
  bitAt : Nat → Fin 512
  /-- `R.ASSEMBLE`: which end the first drawn bit fills (R132). -/
  assemble : BitOrder
  /-- `R.ROT`: the way of `GetBlock`'s bit rotation (R133). -/
  rot : Turn
  /-- `R.GETBLOCK_ADVANCES`: whether `GetBlock` advances the hasher (R133). -/
  getBlockAdvances : Bool

end Sys2Proof
end

