-- ==== Sys2Proof/Machine/BlockAlgebra.lean ====
section
/-! DEFINITION. BlockAlgebra (40_block_algebra.md): the operations on Blocks and Halfblocks, each for any
word width `w` (R56), each a pure function of its operands. Rotations take the distance as their
first argument (`P.ROT_STEP`, `P.BITROT_STEP`). -/

namespace Sys2Proof.Machine

/-- `b(r, c)`: the word at row `r`, column `c` of the matrix view, both taken modulo 4 (R7, R55). -/
def cell {w : Nat} (b : Blk w) (r c : Nat) : BitVec w := b[4 * (c % 4) + r % 4]

/-- The value whose word at row `r`, column `c` is `f r c` (R55). -/
def ofCells {w : Nat} (f : Nat → Nat → BitVec w) : Blk w :=
  Vector.ofFn fun i => f (i.val % 4) (i.val / 4)

/-- `Zero` (R70). -/
def blkZero (w : Nat) : Blk w := Vector.replicate 16 0

/-- `Reset(a)` (R70). -/
def blkReset {w : Nat} (_a : Blk w) : Blk w := blkZero w

/-- `Xor(a, b)` (R57). -/
def blkXor {w : Nat} (a b : Blk w) : Blk w := Vector.zipWith (fun x y => x ^^^ y) a b

/-- `Add(a, b)`: word-wise, modulo `2^w` in each lane (R58). -/
def blkAdd {w : Nat} (a b : Blk w) : Blk w := Vector.zipWith (fun x y => x + y) a b

/-- `Sub(a, b)`: word-wise, modulo `2^w` in each lane (R59). -/
def blkSub {w : Nat} (a b : Blk w) : Blk w := Vector.zipWith (fun x y => x - y) a b

/-- `a(r, k) * b(k, c)` on unbounded integers (R60). -/
def cellProduct {w : Nat} (a b : Blk w) (r c k : Nat) : Nat :=
  (cell a r k).toNat * (cell b k c).toNat

/-- `MMul(a, b)`: the 4×4 matrix product, `a` the left factor, summed on unbounded integers and reduced
once modulo `2^w` (R60). -/
def mmul {w : Nat} (a b : Blk w) : Blk w :=
  ofCells fun r c => BitVec.ofNat w
    (cellProduct a b r c 0 + cellProduct a b r c 1 + cellProduct a b r c 2 + cellProduct a b r c 3)

/-- The identity matrix `Id` (R60). -/
def blkId (w : Nat) : Blk w := ofCells fun r c => if r = c then BitVec.ofNat w 1 else 0

/-- `RotRowsUp(a)` (R61). -/
def rotRowsUp {w : Nat} (n : Nat) (a : Blk w) : Blk w := ofCells fun r c => cell a (r + n) c

/-- `RotRowsDown(a)` (R62). -/
def rotRowsDown {w : Nat} (n : Nat) (a : Blk w) : Blk w := ofCells fun r c => cell a (r + 3 * n) c

/-- `RotColsLeft(a)` (R63). -/
def rotColsLeft {w : Nat} (n : Nat) (a : Blk w) : Blk w := ofCells fun r c => cell a r (c + n)

/-- `RotColsRight(a)` (R64). -/
def rotColsRight {w : Nat} (n : Nat) (a : Blk w) : Blk w := ofCells fun r c => cell a r (c + 3 * n)

/-- `RotCellsLeft(a)` (R65). -/
def rotCellsLeft {w : Nat} (n : Nat) (a : Blk w) : Blk w :=
  Vector.ofFn fun i => a[(i.val + n) % 16]

/-- `RotCellsRight(a)` (R66). -/
def rotCellsRight {w : Nat} (n : Nat) (a : Blk w) : Blk w :=
  Vector.ofFn fun i => a[(i.val + 15 * n) % 16]

/-- `Num(b)` as a natural number: word 0 most significant (R7). -/
def numNat {w : Nat} (b : Blk w) : Nat := b.toList.foldl (fun n x => n * 2 ^ w + x.toNat) 0

/-- `Num(b)` as the bit string of the whole value (R7). -/
def num {w : Nat} (b : Blk w) : BitVec (16 * w) := BitVec.ofNat (16 * w) (numNat b)

/-- `FromNum_w(n)`, the inverse of `Num` (R7). -/
def fromNum {w : Nat} (n : BitVec (16 * w)) : Blk w :=
  Vector.ofFn fun i => n.extractLsb' (w * (15 - i.val)) w

/-- `RotBitsLeft(a)`: the whole value rotated toward its most significant end (R67). -/
def rotBitsLeft {w : Nat} (n : Nat) (a : Blk w) : Blk w := fromNum ((num a).rotateLeft n)

/-- `RotBitsRight(a)`: the whole value rotated toward its least significant end (R68). -/
def rotBitsRight {w : Nat} (n : Nat) (a : Blk w) : Blk w := fromNum ((num a).rotateRight n)

/-- A bit rotation whose way is a parameter (R82 `EXP_ROT`, R133 `R.ROT`). -/
def rotBits {w : Nat} (turn : Turn) (n : Nat) (a : Blk w) : Blk w :=
  match turn with
  | .left => rotBitsLeft n a
  | .right => rotBitsRight n a

end Sys2Proof.Machine
end

