-- ==== Sys2Proof/Machine/SBox.lean ====
section
/-! DEFINITION. SBox substitution, ExpansionFunction and ReductionFunction
(41_sbox_expand_reduce.md sections 1 to 3). -/

namespace Sys2Proof.Machine

/-- A byte replaced by its SBox entry (R81); where the table is applied to nibbles, each nibble replaced
by the low nibble of its entry, which is the model's reading of that granularity (log entry 18). -/
def subByte (P : Params) (x : Byte) : Byte :=
  match P.sboxGran with
  | .byte => P.sbox x
  | .nibble =>
    (P.sbox ((x.extractLsb' 4 4).setWidth 8)).extractLsb' 0 4
      ++ (P.sbox ((x.extractLsb' 0 4).setWidth 8)).extractLsb' 0 4

/-- The four bytes of a word, each substituted in place (R81). -/
def subWord (P : Params) (x : BitVec 32) : BitVec 32 :=
  subByte P (x.extractLsb' 24 8) ++ subByte P (x.extractLsb' 16 8) ++ subByte P (x.extractLsb' 8 8)
    ++ subByte P (x.extractLsb' 0 8)

/-- `SubBytes(b)` (R81). -/
def subBytes (P : Params) (b : Block) : Block := b.map (subWord P)

/-- "copy low words": word `i` of `h` becomes the low bits of word `i` (R82; `Expand0` of R84). Where
`HALF_WORD_BITS` is above 32, that the high bits of a word are dropped is the model's choice (log entry
22). -/
def zeroExtend {w : Nat} (h : Blk w) : Block := h.map fun x => x.setWidth 32

/-- One self-multiplication with a bit-rotated copy; both factors are the old value (R82). -/
def expandStep (P : Params) (x : Block) : Block := mmul x (rotBits P.expRot P.bitRotStep x)

/-- `Expand(h)` (R82). -/
def expand {w : Nat} (P : Params) (h : Blk w) : Block := (expandStep P)^[P.nExp] (zeroExtend h)

/-- `Reduce(b)`: each word modulo `P.REDUCE_MOD` (R84). Where the remainder does not fit a Halfblock word,
that its low `HALF_WORD_BITS` bits are kept is the model's choice, and so is that a modulus of 0 leaves
the word as it is (log entry 21). -/
def reduce {w : Nat} (P : Params) (b : Block) : Blk w :=
  b.map fun x => BitVec.ofNat w (x.toNat % P.reduceMod)

end Sys2Proof.Machine
end

