-- ==== Sys2Proof/Machine/KeySchedule.lean ====
section
/-! DEFINITION. The key schedule (42_key_schedule.md R90, R91). The ratchet and the zeroing of R93, R94
are operations on the state, in Machine/Ops.lean. -/

namespace Sys2Proof.Machine

/-- One turn of the schedule's mixing loop: bit-rotate right, then multiply by `prev` on the right (R91). -/
def schedMixStep (P : Params) (prev x : Block) : Block := mmul (rotBitsRight P.bitRotStep x) prev

/-- `SchedStep(prev)` (R91). R92 (d) prints two words of an example that these steps do not give; the model
follows R91 and the vectors of 95_test_vectors.md section 3.5 (log entry 19). -/
def schedStep (P : Params) (prev : Key) : Key :=
  let x := rotRowsUp P.rotStep prev
  let x := (schedMixStep P prev)^[Config.schedMix] x
  let x := rotCellsRight P.rotStep x
  let x := blkAdd x prev
  let x := rotColsRight P.rotStep x
  blkXor x prev

/-- The first `n` keys of the schedule from `seed`, in order (R90). -/
def scheduleList (P : Params) : Nat → Key → List Key
  | 0, _ => []
  | n + 1, seed => seed :: scheduleList P n (schedStep P seed)

/-- The list has as many keys as asked for. -/
theorem scheduleList_length (P : Params) (n : Nat) (seed : Key) :
    (scheduleList P n seed).length = n := by
  induction n generalizing seed with
  | zero => rfl
  | succ n ih => simp [scheduleList, ih]

/-- `KeySchedule(seed)` (R90). -/
def keySchedule (P : Params) (seed : Key) : Keyset :=
  ⟨(scheduleList P 64 seed).toArray, by simp [scheduleList_length]⟩

/-- The all-zero Keyset (R20, R94). -/
def zeroKeyset : Keyset := Vector.replicate 64 (blkZero 32)

end Sys2Proof.Machine
end

