-- ==== Sys2Proof/Machine/Feistel.lean ====
section
/-! DEFINITION. FeistelNetwork (43_feistel_network.md): the round function, the avalanche transform, the
rounds in both directions and `Run`. The rounds work on the halves `L`, `R`, `T` (R16). -/

namespace Sys2Proof.Machine

/-- `F(m, K)` (R98). -/
def roundF {w : Nat} (P : Params) (m : Blk w) (k : Key) : Blk w :=
  let x := expand P m
  let x := rotCellsRight P.rotStep x
  let x := rotRowsUp P.rotStep x
  let x := mmul x k
  let x := rotBitsLeft P.bitRotStep x
  let x := subBytes P x
  mmul (reduce P x) m

/-- `Avalanche(l, K)` (R104). -/
def avalanche {w : Nat} (P : Params) (l : Blk w) (k : Key) : Blk w :=
  let l := rotRowsUp P.rotStep l
  let l := rotCellsRight P.rotStep l
  let l := rotBitsLeft P.bitRotStep l
  let l := rotColsLeft P.rotStep l
  blkAdd l (reduce P k)

/-- `Unavalanche(r, K)` (R105). -/
def unavalanche {w : Nat} (P : Params) (r : Blk w) (k : Key) : Blk w :=
  let r := blkSub r (reduce P k)
  let r := rotColsRight P.rotStep r
  let r := rotBitsRight P.bitRotStep r
  let r := rotCellsLeft P.rotStep r
  rotRowsDown P.rotStep r

/-- `EncRound` on the halves (R101): `F` is applied to the old `R`. -/
def encRound {w : Nat} (P : Params) (h : Halves w) (k : Key) : Halves w :=
  let h := { h with t := h.r }
  let h := { h with r := blkXor h.l (roundF P h.r k) }
  { h with l := avalanche P h.t k }

/-- `DecRound` on the halves (R102): `F` is applied to the un-avalanched `R`. -/
def decRound {w : Nat} (P : Params) (h : Halves w) (k : Key) : Halves w :=
  let h := { h with r := unavalanche P h.r k }
  let h := { h with t := h.r }
  let h := { h with r := blkXor h.l (roundF P h.r k) }
  { h with l := h.t }

/-- One round in the given direction. -/
def halfRound {w : Nat} (P : Params) (dir : Direction) (h : Halves w) (k : Key) : Halves w :=
  match dir with
  | .encipher => encRound P h k
  | .decipher => decRound P h k

/-- The round keys in the order the rounds use them: `ks[i]` in round `i` when enciphering,
`ks[63 - i]` when deciphering (R100). -/
def roundKeys (ks : Keyset) (dir : Direction) : List Key :=
  match dir with
  | .encipher => ks.toList
  | .decipher => ks.toList.reverse

/-- All `N_ROUNDS = 64` rounds of one `Run`, one for each key (R5, R100, R106). -/
def rounds {w : Nat} (P : Params) (ks : Keyset) (dir : Direction) (h : Halves w) : Halves w :=
  (roundKeys ks dir).foldl (halfRound P dir) h

/-- `(l, r) = Split(b)`; `T` is written before it is read (R16, R106). -/
def loadHalves (P : Params) (b : Block) : Halves P.halfWordBits :=
  { l := (P.splitLayout.split b).1, r := (P.splitLayout.split b).2, t := blkZero P.halfWordBits }

/-- The halves as the half registers of 16 words of 16 bits hold them: the low 16 bits of each word, which
is the whole word for the decided width (R5 `HALF_BITS`, R16). Log entry 2. -/
def registerHalves {w : Nat} (h : Halves w) : Halves 16 :=
  { l := h.l.map fun x => x.setWidth 16
    r := h.r.map fun x => x.setWidth 16
    t := h.t.map fun x => x.setWidth 16 }

/-- The halves recombined after the last round: `R` first (R107), the other order only where
`P.FINAL_SWAP` is false. -/
def combineHalves (P : Params) (h : Halves P.halfWordBits) : Block :=
  if P.finalSwap then P.splitLayout.combine h.r h.l else P.splitLayout.combine h.l h.r

/-- `Run(ks, b, dir)`: output Block and new keyset (R106). -/
def run (P : Params) (ks : Keyset) (b : Block) (dir : Direction) : Block × Keyset :=
  (combineHalves P (rounds P ks dir (loadHalves P b)), keySchedule P ks[63])

/-- `IV(key)` on a temporary network: the key enciphered with itself (R112). -/
def ivOf (P : Params) (key : Key) : Block := (run P (keySchedule P key) key .encipher).1

end Sys2Proof.Machine
end

