-- ==== Sys2Proof/Machine/Serial.lean ====
section
/-! DEFINITION. The serialised forms of Blocks and Halfblocks (20_memory.md R26 to R32) and construction
from a string (R31). Strings are lists of characters, byte strings lists of bytes. -/

namespace Sys2Proof.Machine

/-- The `w` characters of a word, most significant bit first (R26). -/
def wordBin {w : Nat} (x : BitVec w) : List Char :=
  (List.range w).map fun j => if x.getLsbD (w - 1 - j) then '1' else '0'

/-- `Bin(b)`: word 0 first (R26, R30). -/
def bin {w : Nat} (b : Blk w) : List Char := b.toList.flatMap wordBin

/-- Byte `k` of a word, most significant byte first (R27). -/
def wordByte {w : Nat} (x : BitVec w) (k : Nat) : Byte := x.extractLsb' (w - 8 - 8 * k) 8

/-- `Bytes(b)`: word 0 first, each word's most significant byte first (R27, R30). -/
def bytes {w : Nat} (b : Blk w) : List Byte :=
  b.toList.flatMap fun x => (List.range (w / 8)).map (wordByte x)

/-- One lowercase hexadecimal digit (R28). -/
def hexDigit (n : BitVec 4) : Char := "0123456789abcdef".toList.getD n.toNat '0'

/-- `Hex(b)`: word 0 first, each word's most significant digit first (R28, R30). -/
def hex {w : Nat} (b : Blk w) : List Char :=
  b.toList.flatMap fun x =>
    (List.range (w / 4)).map fun j => hexDigit (x.extractLsb' (w - 4 - 4 * j) 4)

/-- The number a string of binary digits writes, most significant digit first. -/
def binNumeral (s : List Char) : Nat := s.foldl (fun n c => 2 * n + if c = '1' then 1 else 0) 0

/-- Construction from a binary string (R31): a wrong length is an invalid argument, a character that
is neither `0` nor `1` has no meaning, and otherwise the value `b` with `Bin(b) = s`. -/
def fromBin (w : Nat) (s : List Char) : Except HostError (Blk w) :=
  if s.length ≠ 16 * w then .error (.invalidArgument s.length)
  else if s.all (fun c => c = '0' || c = '1') then
    .ok (Vector.ofFn fun i => BitVec.ofNat w (binNumeral ((s.drop (w * i.val)).take w)))
  else .error .badCharacter

/-- `BlockFromBin(s)` (R31): exactly 512 characters. -/
def blockFromBin (s : List Char) : Except HostError Block := fromBin 32 s

/-- `HalfblockFromBin(s)` (R30, R31): exactly 256 characters. -/
def halfblockFromBin (s : List Char) : Except HostError Halfblock := fromBin 16 s

/-- The Block whose byte string is `bs`; missing bytes are 0x00 and bytes after the 64th are not
read (R27; the zero-padding of R128 and R137). -/
def blockOfBytes (bs : List Byte) : Block :=
  Vector.ofFn fun i =>
    (bs.getD (4 * i.val) 0 ++ bs.getD (4 * i.val + 1) 0 ++ bs.getD (4 * i.val + 2) 0
      ++ bs.getD (4 * i.val + 3) 0 : BitVec 32)

end Sys2Proof.Machine
end

