-- ==== Sys2Proof/Syntax.lean ====
section
/-! DEFINITION. The six commands of the port (30_encoding.md R42, R44), one constructor for each row of
spec/opcode_table.json, and the fields of a control byte (R43). -/

namespace Sys2Proof

/-- A command. The payload Block is an operand of the four commands that read it (R42); `STATUS` and
`ZEROIZE` read none of their payload (R49). -/
inductive Instr where
  /-- `STATUS` (R120): read the STATUS word. -/
  | status
  /-- `INIT.E` (R111): construct an Encipher session. -/
  | initE (key : Key)
  /-- `INIT.D` (R111): construct a Decipher session. -/
  | initD (key : Key)
  /-- `DIGEST` (R113): process one block of the session's message. -/
  | digest (block : Block)
  /-- `REKEY` (R117): replace the key of the live session. -/
  | rekey (key : Key)
  /-- `ZEROIZE` (R119): destroy the session. -/
  | zeroize
deriving DecidableEq, Repr

/-- The fields of a control byte (R43). -/
structure CtlFields where
  op : BitVec 4
  rsv : BitVec 3
  d : BitVec 1
deriving DecidableEq, Repr

end Sys2Proof
end

