-- ==== Sys2Proof/Machine/Operands.lean ====
section
/-! DEFINITION. Operand assembly and the frame's fields (30_encoding.md R41, R43, R45): the control or
status byte `B[0]`, the payload Block `B[1..64]`, and the frame seen as 520 bits. -/

namespace Sys2Proof.Machine

/-- `B[0] = f[519:512]`: the control byte of a command frame, the status byte of a response (R41). -/
def frameHead (f : Frame) : Byte := f[0]

/-- `PAY`: word `i` is `B[1 + 4*i]` to `B[4 + 4*i]`, most significant byte first (R41, R45). -/
def framePayload (f : Frame) : Block :=
  Vector.ofFn fun i =>
    (f[1 + 4 * i.val] ++ f[2 + 4 * i.val] ++ f[3 + 4 * i.val] ++ f[4 + 4 * i.val] : BitVec 32)

/-- The frame with head byte `head` and payload `pay`: `B[1 + 4*i + k]` is byte `k` of word `i` (R41). -/
def frameOf (head : Byte) (pay : Block) : Frame :=
  Vector.ofFn fun k => if k.val = 0 then head else wordByte pay[(k.val - 1) / 4] ((k.val - 1) % 4)

/-- The frame as one bit vector `f[519:0]`, byte 0 most significant (R41). -/
def frameBits (f : Frame) : BitVec 520 :=
  BitVec.ofNat 520 (f.toList.foldl (fun n b => n * 256 + b.toNat) 0)

/-- The fields of a control byte: `OP` is bits 7:4, `RSV` bits 3:1, `D` bit 0 (R43). -/
def ctlFields (c : Byte) : CtlFields :=
  { op := c.extractLsb' 4 4, rsv := c.extractLsb' 1 3, d := c.extractLsb' 0 1 }

end Sys2Proof.Machine
end

