-- ==== Sys2Proof/Machine/State.lean ====
section
/-! DEFINITION. The state of one core: the four architectural elements (10_state.md R10), the transient
registers that R16 and R170 name, and what each channel of the port holds (R34, R170); with the reset
state and the two ways a step could stop. -/

namespace Sys2Proof.Machine

/-- Reasons the machine stops with a fault: none. The core has no behaviour that stops it: its two errors
are answered by a response and the machine goes on (R150, R151, R154), there is no memory to
miss (R33) and nothing is stuck (93 section 1). Raised by nobody; safe, since no run ends here. -/
inductive Fault where
deriving DecidableEq, Repr

/-- Reasons the model has no meaning for an instruction. -/
inductive Refusal where
  /-- Raised by an arm of `exec` whose instruction has no meaning yet: by no arm of this model. Safe: a
  run stops instead of going on wrongly. -/
  | notModelled (mnemonic : String)
deriving DecidableEq, Repr

/-- The state of one core. -/
structure State where
  /-- `KS[0..63]`, the session keyset (R11). -/
  ks : Keyset
  /-- `LAST`, the chaining value (R12). -/
  last : Block
  /-- `DIR`, the direction of the session (R13). -/
  dir : Direction
  /-- `LIVE`, whether a session exists (R14). -/
  live : Bool
  /-- The transient halves `L`, `R`, `T` (R16, R170). -/
  halves : Halves 16
  /-- `SEED`, the ratchet's copy of its seed (R16, R93, R170). -/
  seed : Block
  /-- `TKS[0..63]`, the temporary network's keyset (R16, R112, R170). -/
  tks : Keyset
  /-- The command frame accepted and not yet answered (R34, R170). -/
  cmd : Option Frame
  /-- The response frame held for the host (R34, R170). -/
  rsp : Option Frame
deriving DecidableEq, Repr

/-- The half registers at their reset value (R170). -/
def Halves.zero : Halves 16 := { l := blkZero 16, r := blkZero 16, t := blkZero 16 }

/-- The core after reset (R20, R170): every element zero, both channels empty. -/
def State.reset : State where
  ks := zeroKeyset
  last := blkZero 32
  dir := .encipher
  live := false
  halves := Halves.zero
  seed := blkZero 32
  tks := zeroKeyset
  cmd := none
  rsp := none

end Sys2Proof.Machine
end

