-- ==== Sys2Proof/Machine/Ops.lean ====
section
/-! DEFINITION. The named operations on the state that the meanings share: the response, raising an
error, the zeroing writes, the schedule into `KS`, the ratchet, one `Run`'s rounds on the half
registers, and the derivation of the IV. -/

namespace Sys2Proof.Machine

/-- Status code `OK` (R48). -/
def okCode : Byte := 0x00#8

/-- Status code of an error: `ERR_ILLEGAL` 0x01, `ERR_NOT_LIVE` 0x02 (R48, R151). -/
def errCode : CoreError → Byte
  | .illegal => 0x01#8
  | .notLive => 0x02#8

/-- `respond(status, payload)`: the command in progress ends with one response frame (R8, R34, R47). -/
def State.respond (status : Byte) (payload : Block) (s : State) : State :=
  { s with cmd := none, rsp := some (frameOf status payload) }

/-- `raise <Error>()`: the command ends, no state element is written, and the response carries the
error's code and a zero payload (R8, R158). Nothing is saved and there is no handler, so there is
no return beside it (R159). -/
def State.raise (e : CoreError) (s : State) : State := s.respond (errCode e) (blkZero 32)

/-- All 64 round keys written with `Zero` (R94). -/
def State.zeroKeys (s : State) : State := { s with ks := s.ks.map blkReset }

/-- `KS <- KeySchedule(key)`, after the zeroing of R94 (R90, R111, R117). -/
def State.loadSchedule (P : Params) (key : Key) (s : State) : State :=
  { s.zeroKeys with ks := keySchedule P key }

/-- `Ratchet()` (R93): copy the seed out, zero the keyset, regenerate it, zero the copy. -/
def State.ratchet (P : Params) (s : State) : State :=
  let s := { s with seed := s.ks[63] }
  let s := s.zeroKeys
  let s := { s with ks := keySchedule P s.seed }
  { s with seed := blkReset s.seed }

/-- The 64 rounds of one `Run` on the half registers, under the keyset `net`; the output Block beside
the state (R106, R107). -/
def State.runRounds (P : Params) (net : Keyset) (b : Block) (dir : Direction) (s : State) :
    State × Block :=
  let h := loadHalves P b
  let s := { s with halves := registerHalves h }
  let h := rounds P net dir h
  ({ s with halves := registerHalves h }, combineHalves P h)

/-- The transient registers zeroed at the end of a command (R16, R22, R94). Log entry 3. -/
def State.clearTransients (s : State) : State :=
  { s with halves := Halves.zero, seed := blkReset s.seed, tks := s.tks.map blkReset }

/-- `LAST <- IV(key)` (R112): on a temporary network `TKS` that is ratcheted by its `Run` and then
destroyed with zeroing; or, where `P.IV_TEMP_NETWORK` is false, on the session's own network, which
`Run` then ratchets. -/
def State.deriveIv (P : Params) (key : Key) (s : State) : State :=
  if P.ivTempNetwork then
    let s := { s with tks := keySchedule P key }
    let (s, iv) := s.runRounds P s.tks key .encipher
    let s := { s with tks := keySchedule P s.tks[63] }
    let s := { s with tks := s.tks.map blkReset }
    { s with last := iv }
  else
    let (s, iv) := s.runRounds P s.ks key .encipher
    { s.ratchet P with last := iv }

/-- The body of a command that needs a live session: `NotLive` where there is none (R113, R117, R153). -/
def State.whenLive (body : State → State) (s : State) : State :=
  if s.live then body s else s.raise .notLive

end Sys2Proof.Machine
end

