-- ==== Sys2Proof/Machine/Chained.lean ====
section
/-! DEFINITION. ChainedCipher (44_chained_cipher_commands.md R110 to R117): the meanings of `INIT.E`,
`INIT.D`, `DIGEST` and `REKEY`. Each is a function of the parameter record; the meanings that `exec`
calls take the device's (R18). -/

namespace Sys2Proof.Machine

/-- `INIT(D, key)` (R111). -/
def initSession (P : Params) (dir : Direction) (key : Key) (s : State) : State :=
  let s := { s.zeroKeys with last := blkReset s.last }
  let s := { s with ks := keySchedule P key }
  let s := s.deriveIv P key
  let s := { s with dir := dir, live := true }
  s.clearTransients.respond okCode (blkZero 32)

/-- `DigestEncipher(B)`: the state after it and the ciphertext (R114). -/
def digestEncipher (P : Params) (b : Block) (s : State) : State × Block :=
  let (s, c) := s.runRounds P s.ks (blkXor b s.last) .encipher
  let s := s.ratchet P
  ({ s with last := c }, c)

/-- `DigestDecipher(B)`: the state after it and the cleartext; `LAST` becomes the operand, and the
exclusive or uses the old `LAST` (R115). -/
def digestDecipher (P : Params) (b : Block) (s : State) : State × Block :=
  let (s, x) := s.runRounds P s.ks b .decipher
  let m := blkXor x s.last
  let s := s.ratchet P
  ({ s with last := b }, m)

/-- `DIGEST B` in the session's direction (R113). -/
def digestByDir (P : Params) (b : Block) (s : State) : State × Block :=
  match s.dir with
  | .encipher => digestEncipher P b s
  | .decipher => digestDecipher P b s

/-- `DIGEST B` (R113). -/
def digestSession (P : Params) (b : Block) (s : State) : State :=
  s.whenLive fun s =>
    let (s, out) := digestByDir P b s
    s.clearTransients.respond okCode out

/-- `REKEY key` (R117); where `P.REKEY_KEEPS_LAST` is false, `LAST` is derived again too. -/
def rekeySession (P : Params) (key : Key) (s : State) : State :=
  s.whenLive fun s =>
    let s := s.loadSchedule P key
    let s := if P.rekeyKeepsLast then s else s.deriveIv P key
    s.clearTransients.respond okCode (blkZero 32)

/-- `INIT.E key` (R111). -/
def execInitE (key : Key) (s : State) : Host.Outcome State Fault Refusal :=
  .next (initSession Config.device .encipher key s)

/-- `INIT.D key` (R111). -/
def execInitD (key : Key) (s : State) : Host.Outcome State Fault Refusal :=
  .next (initSession Config.device .decipher key s)

/-- `DIGEST block` (R113 to R115). -/
def execDigest (block : Block) (s : State) : Host.Outcome State Fault Refusal :=
  .next (digestSession Config.device block s)

/-- `REKEY key` (R117). -/
def execRekey (key : Key) (s : State) : Host.Outcome State Fault Refusal :=
  .next (rekeySession Config.device key s)

end Sys2Proof.Machine
end

