-- ==== Sys2Proof/Machine/Flags.lean ====
section
/-! DEFINITION. The flag-like state and its one view (10_state.md R13, R14, R17): the numbering of `DIR`
and the STATUS word. No other operation of the core has flags (file 40, opening). -/

namespace Sys2Proof.Machine

/-- `DIR` as a bit: 0 Encipher, 1 Decipher (R13). -/
def dirBit : Direction → BitVec 1
  | .encipher => 0
  | .decipher => 1

/-- `LIVE` as a bit (R14). -/
def liveBit : Bool → BitVec 1
  | false => 0
  | true => 1

/-- The STATUS word: bit 0 `LIVE`, bit 1 `DIR`, bits 31:2 zero (R17, R120). -/
def statusWord (dir : Direction) (live : Bool) : BitVec 32 :=
  (dirBit dir).setWidth 32 * 2 + (liveBit live).setWidth 32

/-- The payload of the `STATUS` response: word 0 the STATUS word, words 1 to 15 zero (R47, R120). -/
def statusBlock (dir : Direction) (live : Bool) : Block :=
  (blkZero 32).set 0 (statusWord dir live)

end Sys2Proof.Machine
end

