-- ==== Sys2Proof/Machine/Control.lean ====
section
/-! DEFINITION. The two commands that take no operand (44_chained_cipher_commands.md R119, R120). -/

namespace Sys2Proof.Machine

/-- Every register written with its reset value (R119, R172); the channels are left alone. -/
def State.destroySession (s : State) : State :=
  let s := { s.zeroKeys with last := blkReset s.last }
  let s := { s with dir := .encipher, live := false }
  s.clearTransients

/-- `STATUS` (R120): changes no register. -/
def execStatus (s : State) : Host.Outcome State Fault Refusal :=
  .next (s.respond okCode (statusBlock s.dir s.live))

/-- `ZEROIZE` (R119). -/
def execZeroize (s : State) : Host.Outcome State Fault Refusal :=
  .next (s.destroySession.respond okCode (blkZero 32))

end Sys2Proof.Machine
end

