-- ==== Sys2Proof/Machine/Dispatch.lean ====
section
/-! DEFINITION. One arm for each command of the port (44_chained_cipher_commands.md R121). -/

namespace Sys2Proof.Machine

/-- What each command does (R121). -/
def exec (i : Instr) (s : State) : Host.Outcome State Fault Refusal :=
  match i with
  | .status => Sys2Proof.Machine.execStatus s
  | .initE key => Sys2Proof.Machine.execInitE key s
  | .initD key => Sys2Proof.Machine.execInitD key s
  | .digest block => Sys2Proof.Machine.execDigest block s
  | .rekey key => Sys2Proof.Machine.execRekey key s
  | .zeroize => Sys2Proof.Machine.execZeroize s

end Sys2Proof.Machine
end

