-- ==== Sys2Proof/WellFormed.lean ====
section
/-! DEFINITION. The checks the spec makes on what the host may send: the control byte's three fields
(30_encoding.md R43, R44, R46) and a frame's length (R35, R40). No operand value is checked: every
payload is legal (R42). -/

namespace Sys2Proof

/-- `OP` is one of 0..4: 5..15 is illegal with any low bits (R44, R46). -/
def CtlFields.opOk (c : CtlFields) : Bool := c.op.toNat ≤ 4

/-- `RSV` must be 0 (R43, R46). -/
def CtlFields.rsvOk (c : CtlFields) : Bool := c.rsv == 0

/-- `D` may be 1 only with `OP = 1` (R43, R46). -/
def CtlFields.dirOk (c : CtlFields) : Bool := c.d == 0 || c.op == 1

/-- A control byte that is a command (R44, R46). -/
def CtlFields.wf (c : CtlFields) : Bool := c.opOk && c.rsvOk && c.dirOk

/-- A byte sequence is a whole frame exactly when it has 65 bytes (R35, R40). -/
def frameLengthOk (bytes : List Byte) : Bool := bytes.length == 65

/-- Every command is well formed: its operand has exactly its type's width and there is no reserved
operand value (R42). -/
def Instr.wf : Instr → Bool
  | .status => true
  | .initE _ => true
  | .initD _ => true
  | .digest _ => true
  | .rekey _ => true
  | .zeroize => true

end Sys2Proof
end

