-- ==== Sys2Proof/Decode.lean ====
section
/-! DEFINITION. Decoding a frame to a command or a named rejection (30_encoding.md R46, R50), and the
encoder (R41, R44). Decoding reads no state. -/

namespace Sys2Proof

/-- Why a byte sequence is not a command (R35, R46). -/
inductive Reject where
  /-- Not 65 bytes: no frame (R35, R40). -/
  | frameLength (n : Nat)
  /-- `OP` in 5..15 (R46). -/
  | reservedOperation
  /-- An `RSV` bit is set (R46). -/
  | reservedBits
  /-- `D = 1` with `OP` other than 1 (R46). -/
  | strayDirection
deriving DecidableEq, Repr

/-- The name of what makes a control byte that is no command illegal (R46). -/
def rejectOf (ctl : Byte) : Reject :=
  if !(Machine.ctlFields ctl).opOk then .reservedOperation
  else if !(Machine.ctlFields ctl).rsvOk then .reservedBits
  else .strayDirection

/-- `decode(f)` (R50): exactly six control bytes are commands; every other frame is illegal. -/
def decode (f : Frame) : Except Reject Instr :=
  let ctl := Machine.frameHead f
  let pay := Machine.framePayload f
  if ctl = 0x00#8 then .ok .status
  else if ctl = 0x10#8 then .ok (.initE pay)
  else if ctl = 0x11#8 then .ok (.initD pay)
  else if ctl = 0x20#8 then .ok (.digest pay)
  else if ctl = 0x30#8 then .ok (.rekey pay)
  else if ctl = 0x40#8 then .ok .zeroize
  else .error (rejectOf ctl)

/-- The frame carried by a byte sequence, byte 0 first (R35): only a whole frame is acted on. -/
def frameOfBytes (bs : List Byte) : Option Frame :=
  if h : bs.length = 65 then some ⟨bs.toArray, by simpa using h⟩ else none

/-- Decoding any byte sequence: a sequence that is not one whole frame is rejected by its length. -/
def decodeBytes (bs : List Byte) : Except Reject Instr :=
  match frameOfBytes bs with
  | some f => decode f
  | none => .error (.frameLength bs.length)

/-- The control byte of a command (R44). -/
def ctlOf : Instr → Byte
  | .status => 0x00#8
  | .initE _ => 0x10#8
  | .initD _ => 0x11#8
  | .digest _ => 0x20#8
  | .rekey _ => 0x30#8
  | .zeroize => 0x40#8

/-- The payload of a command (R42); zeros for the two that take none (R49, R51). -/
def payloadOf : Instr → Block
  | .status => Machine.blkZero 32
  | .initE key => key
  | .initD key => key
  | .digest block => block
  | .rekey key => key
  | .zeroize => Machine.blkZero 32

/-- The command frame of a command (R41, R42, R44). -/
def encode (i : Instr) : Frame := Machine.frameOf (ctlOf i) (payloadOf i)

/-- The frame whose bits are `w`, numbered as spec/opcode_table.json numbers them: bit 0 is the least
significant bit of the control byte `B[0]`, the next byte follows above it, and bytes from bit
`nbits` on are 0. Log entry 8. -/
def tableFrame (nbits w : Nat) : Frame :=
  Vector.ofFn fun k => if 8 * k.val < nbits then BitVec.ofNat 8 (w >>> (8 * k.val)) else 0

/-- The instruction the decoder reads from an opcode-table word. -/
def decodeTableWord (nbits w : Nat) : Option Instr := (decode (tableFrame nbits w)).toOption

end Sys2Proof
end

