-- ==== Sys2Proof/Machine/Record.lean ====
section
/-! DEFINITION. The step function as a function of the parameter record `P` (10_state.md R18,
44_chained_cipher_commands.md R121). The core's own step is the same text at `exec`. -/

namespace Sys2Proof.Machine

/-- What each command does under the parameter record `P` (R121). -/
def execWith (P : Params) (i : Instr) (s : State) : Host.Outcome State Fault Refusal :=
  match i with
  | .status => execStatus s
  | .initE key => .next (initSession P .encipher key s)
  | .initD key => .next (initSession P .decipher key s)
  | .digest block => .next (digestSession P block s)
  | .rekey key => .next (rekeySession P key s)
  | .zeroize => execZeroize s

/-- One step, given what the commands do: the command in progress, if there is one and no response waits,
is decoded and executed whole. With no command in progress the core is idle and holds its state
(R162); while a response waits, the core holds it unchanged until the host takes it (R34); an illegal
frame is answered `ERR_ILLEGAL` (R121, R152). Log entry 6. -/
def stepBy (execute : Instr → State → Host.Outcome State Fault Refusal) (s : State) :
    Host.Outcome State Fault Refusal :=
  match s.cmd, s.rsp with
  | none, _ => .next s
  | some _, some _ => .next s
  | some f, none =>
    match decode f with
    | .ok i => execute i s
    | .error _ => .next (s.raise .illegal)

/-- One step of a core with the parameter record `P` (R18, R121). -/
def stepWith (P : Params) (s : State) : Host.Outcome State Fault Refusal := stepBy (execWith P) s

end Sys2Proof.Machine
end

