-- ==== Sys2Proof/Machine/Step.lean ====
section
/-! DEFINITION. One step of the core: the command in progress, if there is one and no response waits, is
decoded and executed whole (20_memory.md R34, R36; 44_chained_cipher_commands.md R121). -/

namespace Sys2Proof.Machine

/-- One step of the core: the step of Machine/Record.lean, with the core's `exec` (R34, R36, R121). -/
def step (s : State) : Host.Outcome State Fault Refusal := stepBy exec s

/-- The host has taken any response that waited and the command channel has transferred the frame with
these opcode-table bits, so that the next step runs it. Log entry 7. -/
def State.withFetchWord (s : State) (nbits w : Nat) : State :=
  { s with cmd := some (tableFrame nbits w), rsp := none }

end Sys2Proof.Machine
end

