-- ==== Sys2Proof/Machine/Port.lean ====
section
/-! DEFINITION. The port and the reset input (20_memory.md R34 to R37, 70_reset_and_hazards.md R170, R171):
what the host can do to a core, as events between the core's own steps, and one whole transaction. -/

namespace Sys2Proof.Machine

/-- The core asserts command `ready` only when it is idle: no command in progress and no response
waiting (R34). -/
def State.cmdReady (s : State) : Bool := s.cmd.isNone && s.rsp.isNone

/-- The core asserts response `valid` while it holds a response frame (R34). -/
def State.rspValid (s : State) : Bool := s.rsp.isSome

/-- The host asserts command `valid` with the frame `f`: it is transferred, whole, exactly when the core
is ready (R34, R35). -/
def State.offer (f : Frame) (s : State) : State := if s.cmdReady then { s with cmd := some f } else s

/-- The host asserts response `ready`: the response frame, if one is held, is transferred (R34). -/
def State.take (s : State) : State × Option Frame := ({ s with rsp := none }, s.rsp)

/-- The reset input is asserted: the reset state, whatever was in progress, and no response for a
command that it cuts (R170, R171). -/
def State.assertReset (_s : State) : State := State.reset

/-- What can happen next at a core: an act of the host at the port, the reset input, or the core's own
step. -/
inductive PortEvent where
  | offer (f : Frame)
  | take
  | reset
  | run
deriving DecidableEq, Repr

/-- The state after one event. -/
def portEvent (e : PortEvent) (s : State) : Host.Outcome State Fault Refusal :=
  match e with
  | .offer f => .next (s.offer f)
  | .take => .next s.take.1
  | .reset => .next s.assertReset
  | .run => step s

/-- One transaction of a core with the step `core`: a command frame in, the command executed, its response
frame out (R34, R36). -/
def transactBy (core : State → Host.Outcome State Fault Refusal) (s : State) (f : Frame) :
    State × Option Frame :=
  match core (s.offer f) with
  | .next s' => s'.take
  | .fault _ => (s, none)
  | .refused _ => (s, none)

/-- The behaviour of a core over time: the fold of transactions over the sequence of command frames,
with the sequence of response frames (R36, R121). -/
def transactAllBy (core : State → Host.Outcome State Fault Refusal) :
    State → List Frame → State × List (Option Frame)
  | s, [] => (s, [])
  | s, f :: fs =>
    let (s, r) := transactBy core s f
    let (s, rs) := transactAllBy core s fs
    (s, r :: rs)

/-- `exec(P, s, f) = (s', rsp)`: the whole core as one function of the parameter record (R18, R121). -/
def transactWith (P : Params) (s : State) (f : Frame) : State × Option Frame :=
  transactBy (stepWith P) s f

/-- The fold of `exec(P, s, f)` over the sequence of command frames (R121). -/
def transactAllWith (P : Params) (s : State) (fs : List Frame) : State × List (Option Frame) :=
  transactAllBy (stepWith P) s fs

/-- One transaction of the core: the device of R6. -/
def transact (s : State) (f : Frame) : State × Option Frame := transactBy step s f

/-- The behaviour over time of the core. -/
def transactAll (s : State) (fs : List Frame) : State × List (Option Frame) := transactAllBy step s fs

end Sys2Proof.Machine
end

