-- ==== Sys2Proof/Machine/Clients.lean ====
section
/-! DEFINITION. The host procedures of 45_clients_keyedhash_prng_key.md (R125 to R138) and the caller's
chunking (R128, R156, R179), over the commands of one core. They add nothing to the core (R4). Every
open host parameter is a field of `HostParams`. -/

namespace Sys2Proof.Machine

/-- One command sent to an idle core: the core after it and the payload of its response. -/
def command (i : Instr) (s : State) : State × Block :=
  let (s, r) := transact s (encode i)
  (s, (r.map framePayload).getD (blkZero 32))

/-- KeyedHash: its core and the running `hashsum` (R125, R126). -/
structure KeyedHash where
  core : State
  hashsum : Block
deriving DecidableEq, Repr

/-- `KeyedHash.new()` on a core (R126). -/
def hashNew (h : HostParams) (s : State) : KeyedHash :=
  { core := (command (.initE h.hashCtorKey) s).1, hashsum := h.hashInit }

/-- `DigestBlock(data)` (R127): the data is the key and the block. -/
def hashDigestBlock (data : Block) (k : KeyedHash) : KeyedHash :=
  let (s, _) := command (.rekey data) k.core
  let (s, c) := command (.digest data) s
  { core := s, hashsum := blkXor k.hashsum c }

/-- The message in consecutive 64-byte chunks, the last one zero-padded (R128, R179). -/
def chunks (message : List Byte) : List Block :=
  (List.range ((message.length + 63) / 64)).map fun j => blockOfBytes (message.drop (64 * j))

/-- The data blocks of a hash: whether an empty message has one, and whether whole chunks are followed by
an all-zero block, are host parameters (R128). -/
def messageBlocks (h : HostParams) (message : List Byte) : List Block :=
  if message.isEmpty then (if h.emptyHasBlock then [blkZero 32] else [])
  else if message.length % 64 = 0 && h.fullHasExtra then chunks message ++ [blkZero 32]
  else chunks message

/-- `CalculateHashsum(message)` on a core (R128). -/
def calculateHashsum (h : HostParams) (message : List Byte) (s : State) : Block :=
  let k := (messageBlocks h message).foldl (fun k d => hashDigestBlock d k) (hashNew h s)
  (hashDigestBlock (h.lenBlock message.length) k).hashsum

/-- PRNG: its seed, its hasher and the bit cursor, 0 to 512 (R130, R131, C3). -/
structure Prng where
  seed : Block
  hasher : KeyedHash
  nextBit : Nat
deriving DecidableEq, Repr

/-- `PRNG.new(seed)` on a core (R130). -/
def prngNew (h : HostParams) (seed : Block) (s : State) : Prng :=
  { seed := seed, hasher := hashDigestBlock seed (hashNew h s), nextBit := 0 }

/-- `AdvanceBlock()` (R131). -/
def prngAdvance (g : Prng) : Prng :=
  { g with hasher := hashDigestBlock (blkXor g.hasher.hashsum g.seed) g.hasher, nextBit := 0 }

/-- `GetBit()` (R131): cursor value 512 means exhausted (C3). -/
def prngGetBit (h : HostParams) (g : Prng) : Prng × Bool :=
  let g := if g.nextBit = 512 then prngAdvance g else g
  ({ g with nextBit := g.nextBit + 1 }, (num g.hasher.hashsum).getLsbD (h.bitAt g.nextBit).val)

/-- So many bits, in the order drawn. -/
def prngDraw (h : HostParams) : Nat → Prng → Prng × List Bool
  | 0, g => (g, [])
  | n + 1, g =>
    let (g, b) := prngGetBit h g
    let (g, bs) := prngDraw h n g
    (g, b :: bs)

/-- The value drawn bits are placed in (R132). -/
def assembleBits (order : BitOrder) (bits : List Bool) : Nat :=
  match order with
  | .firstIsMost => bits.foldl (fun n b => 2 * n + b.toNat) 0
  | .firstIsLeast => bits.foldr (fun b n => 2 * n + b.toNat) 0

/-- `GetRandom<T>()` for a `T` of `size` bytes (R132). -/
def prngGetRandom (h : HostParams) (size : Nat) (g : Prng) : Prng × BitVec (8 * size) :=
  let (g, bits) := prngDraw h (8 * size) g
  (g, BitVec.ofNat (8 * size) (assembleBits h.assemble bits))

/-- `operator()`: one 32-bit word by the same path (R132). -/
def prngWord (h : HostParams) (g : Prng) : Prng × BitVec 32 := prngGetRandom h 4 g

/-- `GetBlock()` (R133): the cursor is not consumed; whether the hasher is then advanced is a host
parameter. -/
def prngGetBlock (h : HostParams) (g : Prng) : Prng × Block :=
  let x := mmul g.hasher.hashsum g.seed
  let x := rotBits h.rot Config.device.bitRotStep x
  let x := mmul x g.seed
  (if h.getBlockAdvances then prngAdvance g else g, x)

/-- `Key.Random()`: a draw of any Block on the host (R136). -/
def keyRandom (draw : Block) : Key := draw

/-- `Key.WriteToFile`: the 64 bytes of the key (R32, R137). -/
def writeKeyFile (key : Key) : List Byte := bytes key

/-- `Key.LoadFromFile`: `none` is a file that cannot be opened; a short file is zero-padded, and bytes
after the 64th are not read (R32, R137). -/
def loadKeyFile (file : Option (List Byte)) : Except HostError Key :=
  match file with
  | none => .error .ioError
  | some d => .ok (blockOfBytes d)

/-- `Key.FromPassword(str)`, given the bytes of the string (R138). -/
def keyFromPassword (h : HostParams) (password : List Byte) (s : State) : Key :=
  calculateHashsum h password s

/-- The blocks of a ciphertext stream: a length that is not a multiple of 64 bytes is the calling
layer's invalid argument (R156, R179). -/
def ciphertextBlocks (stream : List Byte) : Except HostError (List Block) :=
  if stream.length % 64 = 0 then .ok (chunks stream) else .error (.invalidArgument stream.length)

end Sys2Proof.Machine
end

