-- ==== Sys2Proof/Safety.lean ====
section
/-! DEFINITION. What a good state of the core is, in the terms the statements use. -/

namespace Sys2Proof.Machine

/-- With no live session nothing of one is held: `LIVE = 0` implies `KS = 0`, `LAST = 0` and `DIR = 0`
(R17, R22). -/
def State.deadIsZero (s : State) : Prop :=
  s.live = false → s.ks = zeroKeyset ∧ s.last = blkZero 32 ∧ s.dir = .encipher

/-- Between commands every transient register holds zero (R16, R22, R170). -/
def State.transientsZero (s : State) : Prop :=
  s.halves = Halves.zero ∧ s.seed = blkZero 32 ∧ s.tks = zeroKeyset

/-- At most one command in flight: no command is in progress while a response waits (R34). -/
def State.oneInFlight (s : State) : Prop := s.cmd = none ∨ s.rsp = none

/-- A live session's keyset was produced by the key schedule, from its own first key (R14, R92). -/
def State.keysetScheduled (s : State) : Prop :=
  s.live = true → s.ks = keySchedule Config.device s.ks[0]

/-- A response waiting for the host carries one of the three status codes, and a zero payload where it
reports an error (R47, R48). -/
def State.rspLegal (s : State) : Prop :=
  ∀ r, s.rsp = some r →
    frameHead r = okCode ∨
      ((frameHead r = errCode .illegal ∨ frameHead r = errCode .notLive) ∧
        framePayload r = blkZero 32)

/-- The invariant of the core: all five together. -/
structure State.Inv (s : State) : Prop where
  dead : s.deadIsZero
  transients : s.transientsZero
  port : s.oneInFlight
  keyset : s.keysetScheduled
  response : s.rspLegal

/-- The core is idle and ready for the next command (R34). -/
def State.idle (s : State) : Prop := s.cmd = none ∧ s.rsp = none

/-- The command that constructs a session in a direction (R111). -/
def initOf (dir : Direction) (key : Key) : Instr :=
  match dir with
  | .encipher => .initE key
  | .decipher => .initD key

/-- One `DIGEST` frame for each block, in order (R113, R175). -/
def digestFrames (blocks : List Block) : List Frame := blocks.map fun b => encode (.digest b)

/-- The Block a response carries; `Zero` where there is no response. -/
def responseBlock (r : Option Frame) : Block := (r.map framePayload).getD (blkZero 32)

/-- The core after a session's `INIT`, started from `s` (R174). -/
def sessionStart (dir : Direction) (key : Key) (s : State) : State :=
  (transact s (encode (initOf dir key))).1

/-- The blocks that a core in state `s` returns for the `DIGEST` commands of `blocks`, in order. -/
def digestOutputs (s : State) (blocks : List Block) : List Block :=
  (transactAll s (digestFrames blocks)).2.map responseBlock

/-- One whole message through a fresh session: `INIT`, then one `DIGEST` for each block (R52, R174). -/
def messageOutputs (dir : Direction) (key : Key) (blocks : List Block) (s : State) : List Block :=
  digestOutputs (sessionStart dir key s) blocks

/-- One whole message through a fresh session of a core with the parameter record `P` (R116, R177). -/
def messageOutputsWith (P : Params) (dir : Direction) (key : Key) (blocks : List Block) (s : State) :
    List Block :=
  (transactAllWith P (transactWith P s (encode (initOf dir key))).1 (digestFrames blocks)).2.map
    responseBlock

/-- Whether a response reports success (R48). -/
def respondsOk (r : Option Frame) : Bool := r.map frameHead == some okCode

end Sys2Proof.Machine
end

