-- ==== Sys2Proof/Certificates/Slice0/Obligations.lean ====
section
/-! DEFINITION. The statements for the provers. Where a docstring names a decision D<n>, the rule is one
that the spec marks as its own choice (92_eei_decisions.md). -/

open Sys2Proof Sys2Proof.Machine

/-! ## Reset and the step -/

/-- Every bit of the reset state is 0 and both channels are empty (R20, R170; the spec's decision D6). -/
def Obligations.ResetLeavesEveryBitZero : Prop :=
  (∀ (i j : Nat) (hi : i < 64) (hj : j < 16),
    State.reset.ks[i][j] = 0#32 ∧ State.reset.tks[i][j] = 0#32) ∧
  (∀ (j : Nat) (hj : j < 16),
    State.reset.last[j] = 0#32 ∧ State.reset.seed[j] = 0#32 ∧ State.reset.halves.l[j] = 0#16 ∧
      State.reset.halves.r[j] = 0#16 ∧ State.reset.halves.t[j] = 0#16) ∧
  dirBit State.reset.dir = 0#1 ∧ liveBit State.reset.live = 0#1 ∧
  State.reset.cmd = none ∧ State.reset.rsp = none

/-- A step runs the decoded command: the model's form of "exec(P, s, f)" of R121. The step adds nothing
around `exec`: the response and the emptied command channel are the meaning's own. The same holds for
the step of a core with any parameter record, and the core's own `exec` is the one of the device's
record (R18, R121). -/
def Obligations.StepRunsTheDecodedCommand : Prop :=
  ∀ (s : State) (f : Frame) (i : Instr),
    s.cmd = some f → s.rsp = none → decode f = .ok i → i.wf = true →
      step s = exec i s ∧ exec i s = execWith Config.device i s ∧
      ∀ P : Params, stepWith P s = execWith P i s

/-- A frame that is no command is answered `ERR_ILLEGAL` with a zero payload, and every register keeps
its value (R46, R152; the spec's decision D30). -/
def Obligations.StepAnswersIllegalFrames : Prop :=
  ∀ (s : State) (f : Frame) (e : Reject),
    s.cmd = some f → s.rsp = none → decode f = .error e →
    step s = .next { s with cmd := none, rsp := some (frameOf 0x01#8 (blkZero 32)) }

/-- The core holds its state when it is idle, and holds a response unchanged until the host takes it
(R34, R162; what one step of the model is stands in log entry 6). -/
def Obligations.StepHoldsWhenIdleOrWaiting : Prop :=
  ∀ s : State, (s.cmd = none → step s = .next s) ∧ (s.rsp ≠ none → step s = .next s)

/-- Every step gives a next state, and a command in progress is answered by exactly one response, with a
status code of R48, and leaves the command channel empty (R34, R48, R154); for the core and for a core
with any parameter record (R121). -/
def Obligations.StepIsTotalAndAnswers : Prop :=
  ∀ core : State → Host.Outcome State Fault Refusal, (core = step ∨ ∃ P, core = stepWith P) →
    (∀ s : State, ∃ s', core s = .next s') ∧
    ∀ (s : State) (f : Frame), s.cmd = some f → s.rsp = none →
      ∃ s' r, core s = .next s' ∧ s'.cmd = none ∧ s'.rsp = some r ∧
        (frameHead r = 0x00#8 ∨ frameHead r = 0x01#8 ∨ frameHead r = 0x02#8)

/-! ## What each command does -/

/-- `STATUS`: bit 0 of word 0 is `LIVE`, bit 1 is `DIR`, all other bits of the payload are 0; no register
moves (R17, R120; the spec's decision D28). -/
def Obligations.StatusCompletes : Prop :=
  ∀ s : State, ∃ p : Block,
    exec .status s = .next { s with cmd := none, rsp := some (frameOf 0x00#8 p) } ∧
    p[0].getLsbD 0 = s.live ∧ p[0].getLsbD 1 = decide (s.dir = .decipher) ∧
    (∀ k, 2 ≤ k → p[0].getLsbD k = false) ∧ ∀ (j : Nat) (hj : j < 16), 1 ≤ j → p[j] = 0#32

/-- `INIT.E` and `INIT.D`: the whole next state, which depends on the key and the direction alone; every
earlier session is gone (R111, R112; the spec's decisions D18, D20; the zero transients are log
entry 3's). -/
def Obligations.InitCompletes : Prop :=
  ∀ (key : Key) (s : State),
    (exec (.initE key) s = .next
      { ks := keySchedule Config.device key, last := ivOf Config.device key, dir := .encipher,
        live := true, halves := Halves.zero, seed := blkZero 32, tks := zeroKeyset,
        cmd := none, rsp := some (frameOf 0x00#8 (blkZero 32)) }) ∧
    (exec (.initD key) s = .next
      { ks := keySchedule Config.device key, last := ivOf Config.device key, dir := .decipher,
        live := true, halves := Halves.zero, seed := blkZero 32, tks := zeroKeyset,
        cmd := none, rsp := some (frameOf 0x00#8 (blkZero 32)) })

/-- `DIGEST` in a live Encipher session: the output is `Run`'s on the block exclusive-ored with `LAST`, it
becomes `LAST`, and the keyset is `Run`'s (R113, R114). `DIR` and `LIVE` keep their values;
`TransientsEndZero` says what the transient registers hold. -/
def Obligations.DigestEnciphers : Prop :=
  ∀ (b : Block) (s : State), s.live = true → s.dir = .encipher →
    ∃ t, exec (.digest b) s = .next t ∧
      t.ks = (run Config.device s.ks (blkXor b s.last) .encipher).2 ∧
      t.last = (run Config.device s.ks (blkXor b s.last) .encipher).1 ∧
      t.rsp = some (frameOf 0x00#8 (run Config.device s.ks (blkXor b s.last) .encipher).1) ∧
      t.cmd = none ∧ t.dir = .encipher ∧ t.live = true

/-- `DIGEST` in a live Decipher session: the exclusive or uses the old `LAST`, `LAST` becomes the
ciphertext operand, and the keyset is `Run`'s (R113, R115). -/
def Obligations.DigestDeciphers : Prop :=
  ∀ (b : Block) (s : State), s.live = true → s.dir = .decipher →
    ∃ t, exec (.digest b) s = .next t ∧
      t.ks = (run Config.device s.ks b .decipher).2 ∧
      t.last = b ∧
      t.rsp = some (frameOf 0x00#8 (blkXor (run Config.device s.ks b .decipher).1 s.last)) ∧
      t.cmd = none ∧ t.dir = .decipher ∧ t.live = true

/-- The transient registers after a command: `STATUS` and every command that ends in an error leave them
as they were, every other command leaves them zero (R16, R22; that `L`, `R` and `T` are zeroed too is
the model's reading, log entry 3). -/
def Obligations.TransientsEndZero : Prop :=
  ∀ (i : Instr) (s s' : State), exec i s = .next s' →
    if i = .status ∨ respondsOk s'.rsp = false
    then s'.halves = s.halves ∧ s'.seed = s.seed ∧ s'.tks = s.tks
    else s'.halves = Halves.zero ∧ s'.seed = blkZero 32 ∧ s'.tks = zeroKeyset

/-- `REKEY` in a live session: the keyset is the key's schedule; `LAST`, `DIR` and `LIVE` keep their
values (R117; the spec's decision D19). The zero transients are log entry 3's. -/
def Obligations.RekeyCompletes : Prop :=
  ∀ (key : Key) (s : State), s.live = true →
    exec (.rekey key) s = .next
      { s with
        ks := keySchedule Config.device key
        halves := Halves.zero, seed := blkZero 32, tks := zeroKeyset
        cmd := none, rsp := some (frameOf 0x00#8 (blkZero 32)) }

/-- `ZEROIZE` leaves the reset state, with an `OK` response to be taken, whatever the state before
(R119, R172; the spec's decision D29). -/
def Obligations.ZeroizeCompletes : Prop :=
  ∀ s : State, exec .zeroize s =
    .next { State.reset with rsp := some (frameOf 0x00#8 (blkZero 32)) }

/-- `DIGEST` and `REKEY` with no session are answered `ERR_NOT_LIVE` with a zero payload, and every
register keeps its value (R153, R158; the spec's decisions D5, D21). -/
def Obligations.NotLiveIsAnswered : Prop :=
  ∀ (b : Block) (s : State), s.live = false →
    exec (.digest b) s = .next { s with cmd := none, rsp := some (frameOf 0x02#8 (blkZero 32)) } ∧
    exec (.rekey b) s = .next { s with cmd := none, rsp := some (frameOf 0x02#8 (blkZero 32)) }

/-- Which command leaves which register as it was, on every path (the untouched entries of R19's table),
and a command that ends in an error leaves every one (R158). -/
def Obligations.CommandsTouchOnlyTheirRegisters : Prop :=
  ∀ (i : Instr) (s s' : State), exec i s = .next s' →
    (i = .status → s'.ks = s.ks ∧ s'.last = s.last ∧ s'.dir = s.dir ∧ s'.live = s.live ∧
      s'.halves = s.halves ∧ s'.seed = s.seed ∧ s'.tks = s.tks) ∧
    (∀ b, i = .digest b → s'.dir = s.dir ∧ s'.live = s.live) ∧
    (∀ k, i = .rekey k → s'.last = s.last ∧ s'.dir = s.dir ∧ s'.live = s.live) ∧
    (∀ r, s'.rsp = some r → frameHead r ≠ 0x00#8 →
      s' = { s with cmd := none, rsp := some r })

/-- A legal command, past the check of `LIVE`, always completes with `OK`, and the check is made by
`DIGEST` and `REKEY` only (R151, R154). -/
def Obligations.LegalCommandsAnswerOk : Prop :=
  ∀ (i : Instr) (s : State), (s.live = true ∨ ∀ b, i ≠ .digest b ∧ i ≠ .rekey b) →
    ∃ t p, exec i s = .next t ∧ t.cmd = none ∧ t.rsp = some (frameOf 0x00#8 p)

/-! ## Whole-machine rules -/

/-- The invariant holds at reset. -/
def Obligations.InvHoldsAtReset : Prop := State.reset.Inv

/-- Every step keeps the invariant: with no session nothing of one is held (R17, R22), the transient
registers are zero between commands (R16, R22; log entry 3), at most one command is in flight
(R34), a live keyset was produced by the schedule (R14), and a waiting response is one of the three
kinds (R47, R48). -/
def Obligations.StepKeepsInv : Prop :=
  ∀ s s' : State, s.Inv → step s = .next s' → s'.Inv

/-- Every act of the host at the port, and a reset at any moment, keeps the invariant too (R34, R170,
R171). That offer, take and reset are events of this form is the model's choice (log entry 10), and
so is the part of the invariant that `L`, `R` and `T` are zero between commands (log entry 3). -/
def Obligations.PortEventsKeepInv : Prop :=
  ∀ (e : PortEvent) (s s' : State), s.Inv → portEvent e s = .next s' → s'.Inv

/-- The direction and the liveness of a session change only by `INIT` and `ZEROIZE` (R13, R14, R178);
`LIVE` rises only by `INIT` and falls only by `ZEROIZE`. -/
def Obligations.OnlyInitAndZeroizeSetTheFlags : Prop :=
  ∀ s s' : State, step s = .next s' →
    (s'.dir ≠ s.dir → ∃ f i, s.cmd = some f ∧ decode f = .ok i ∧
      (i = .zeroize ∨ ∃ key, i = .initE key ∨ i = .initD key)) ∧
    (s.live = false → s'.live = true → ∃ f i key, s.cmd = some f ∧ decode f = .ok i ∧
      (i = .initE key ∨ i = .initD key)) ∧
    (s.live = true → s'.live = false → ∃ f, s.cmd = some f ∧ decode f = .ok .zeroize)

/-- Key material is write-only at the port: the answer to any command but `DIGEST` depends on nothing
but `LIVE`, `DIR` and which command it is, not on the registers nor on the operand (R21, R47; the
spec's decision D22). -/
def Obligations.KeyMaterialIsNotReturned : Prop :=
  ∀ (i j : Instr) (s t s' t' : State), ctlOf i = ctlOf j → ctlOf i ≠ 0x20#8 →
    s.live = t.live → s.dir = t.dir → exec i s = .next s' → exec j t = .next t' →
    s'.rsp = t'.rsp

/-- A transaction on an idle core ends with an idle core and exactly one response (R34, R36; the spec's
decision D36). -/
def Obligations.TransactionAnswersAndEndsIdle : Prop :=
  ∀ (s : State) (f : Frame), s.idle → (transact s f).1.idle ∧ (transact s f).2.isSome = true

/-- After any number of errors the core behaves as if the failing commands had never been sent: the
state after a sequence of commands, and the answers to those that succeeded, are those of the
sequence without the failing ones (R158, R159). -/
def Obligations.ErrorsLeaveNoTrace : Prop :=
  ∀ (s : State) (fs : List Frame), s.idle →
    let answered := fs.zip (transactAll s fs).2
    let good := answered.filter fun p => respondsOk p.2
    transactAll s (good.map Prod.fst) = ((transactAll s fs).1, good.map Prod.snd)

/-- A frame is taken only by an idle core and only a held response is handed over; the reset input
leaves the reset state and no response, whatever was in progress (R34, R170, R171; the spec's
decisions D6, D36). The form of the three events is the model's choice (log entry 10): R34 asserts
`ready` only when the core is idle, and that an idle core takes an offered frame at once is the
model's. -/
def Obligations.PortHandshake : Prop :=
  (∀ (s : State) (f : Frame), s.idle → s.offer f = { s with cmd := some f }) ∧
  (∀ (s : State) (f : Frame), ¬ s.idle → s.offer f = s) ∧
  (∀ s : State, s.take.2 = s.rsp ∧ s.take.1 = { s with rsp := none }) ∧
  ∀ s : State, portEvent .reset s = .next State.reset

/-! ## Encoding -/

/-- Decoding an encoded command gives it back, with every operand at every value (R41, R42, R44, R50). -/
def Obligations.DecodeUndoesEncode : Prop :=
  ∀ i : Instr, i.wf = true → decode (encode i) = .ok i

/-- A frame that decodes to a command is that command's encoding, up to the payload of the two commands
that read none (R42, R49, R50). -/
def Obligations.EncodeUndoesDecode : Prop :=
  ∀ (f : Frame) (i : Instr), decode f = .ok i →
    encode i = if i = .status ∨ i = .zeroize then frameOf (frameHead f) (blkZero 32) else f

/-- Exactly the six control bytes of R44 are commands, and they are exactly the bytes whose fields pass
the three checks of R43 and R46 (the spec's decisions D3, D30). -/
def Obligations.DecodesExactlySixControlBytes : Prop :=
  ∀ f : Frame,
    ((∃ i, decode f = .ok i) ↔
      frameHead f ∈ [0x00#8, 0x10#8, 0x11#8, 0x20#8, 0x30#8, 0x40#8]) ∧
    ((∃ i, decode f = .ok i) ↔ (ctlFields (frameHead f)).wf = true)

/-- A byte sequence that is not 65 bytes long is no frame and is never acted on (R35, R40; the spec's
decision D2; the name of the rejection is the model's, log entry 9). -/
def Obligations.OnlyWholeFramesDecode : Prop :=
  (∀ bs : List Byte, bs.length ≠ 65 → decodeBytes bs = .error (.frameLength bs.length)) ∧
  ∀ f : Frame, decodeBytes f.toList = decode f

/-- A few written-out frames decode to the commands they spell (95_test_vectors.md section 3.2). -/
def Obligations.WrittenOutFramesDecode : Prop :=
  decodeBytes (0x00#8 :: List.replicate 64 0xff#8) = .ok .status ∧
  decodeBytes (0x10#8 :: (List.replicate 63 0x00#8 ++ [0x07#8]))
    = .ok (.initE ((blkZero 32).set 15 7#32)) ∧
  decodeBytes (0x11#8 :: 0x80#8 :: List.replicate 63 0x00#8)
    = .ok (.initD ((blkZero 32).set 0 0x80000000#32)) ∧
  decodeBytes (0x20#8 :: 0x01#8 :: 0x02#8 :: 0x03#8 :: 0x04#8 :: List.replicate 60 0x00#8)
    = .ok (.digest ((blkZero 32).set 0 0x01020304#32)) ∧
  decodeBytes (0x30#8 :: (List.replicate 4 0x00#8 ++ 0xa0#8 :: List.replicate 59 0x00#8))
    = .ok (.rekey ((blkZero 32).set 1 0xa0000000#32)) ∧
  decodeBytes (0x40#8 :: List.replicate 64 0xff#8) = .ok .zeroize

/-- The payload of `STATUS` and of `ZEROIZE` affects neither state nor response (R49; the spec's
decision D34). -/
def Obligations.IgnoredPayloadsChangeNothing : Prop :=
  ∀ (s : State) (p q : Block), s.idle →
    transact s (frameOf 0x00#8 p) = transact s (frameOf 0x00#8 q) ∧
    transact s (frameOf 0x40#8 p) = transact s (frameOf 0x40#8 q)

/-- The frame as a bit vector: byte `k` is bits `519-8k` to `512-8k`, word `i` of the payload is bits
`511-32i` to `480-32i`, and the low 512 bits are `Num` of the payload (R41; the spec's decision
D2). -/
def Obligations.FrameBitsHoldTheFields : Prop :=
  ∀ f : Frame,
    (∀ (k : Nat) (hk : k < 65), f[k] = (frameBits f).extractLsb' (512 - 8 * k) 8) ∧
    frameHead f = (frameBits f).extractLsb' 512 8 ∧
    (∀ (i : Nat) (hi : i < 16),
      (framePayload f)[i] = (frameBits f).extractLsb' (480 - 32 * i) 32) ∧
    num (framePayload f) = (frameBits f).extractLsb' 0 512

/-! ## Serialised forms -/

/-- The binary, byte and hexadecimal forms are the base-2, base-256 and base-16 big-endian numerals of
`Num(b)`, at full width (R26 to R29; the spec's decisions D26, D27). -/
def Obligations.SerialFormsAreNumerals : Prop :=
  ∀ b : Block,
    (bin b).length = 512 ∧ binNumeral (bin b) = numNat b ∧
    (bytes b).length = 64 ∧ (bytes b).foldl (fun n x => n * 256 + x.toNat) 0 = numNat b ∧
    (hex b).length = 128 ∧
    (hex b).foldl (fun n c => n * 16 + "0123456789abcdef".toList.idxOf c) 0 = numNat b

/-- The byte form is a bijection with the 64-byte strings (R27, R29). -/
def Obligations.ByteFormIsABijection : Prop :=
  (∀ b : Block, blockOfBytes (bytes b) = b) ∧
  ∀ bs : List Byte, bs.length = 64 → bytes (blockOfBytes bs) = bs

/-- Construction from a string: a wrong length is an invalid argument that carries the length, a string
of the right length is accepted exactly when it is the binary form of the Block it gives, and one
with another character is given no meaning (R31). -/
def Obligations.ConstructionFromAString : Prop :=
  (∀ s : List Char, s.length ≠ 512 → blockFromBin s = .error (.invalidArgument s.length)) ∧
  (∀ s : List Char, s.length ≠ 256 → halfblockFromBin s = .error (.invalidArgument s.length)) ∧
  (∀ (s : List Char) (b : Block), blockFromBin s = .ok b ↔ bin b = s) ∧
  (∀ (s : List Char) (h : Halfblock), halfblockFromBin s = .ok h ↔ bin h = s) ∧
  ∀ (s : List Char) (c : Char), s.length = 512 → c ∈ s → c ≠ '0' → c ≠ '1' →
    blockFromBin s = .error .badCharacter

/-- A key file: one that cannot be opened is an I/O error; the first 64 bytes of a file, padded with 0x00
to 64, are the bytes of the key; a file is written as the bytes of the key, and loads back (R32,
R137). -/
def Obligations.KeyFilesLoadZeroPadded : Prop :=
  loadKeyFile none = .error .ioError ∧
  (∀ d : List Byte, ∃ key, loadKeyFile (some d) = .ok key ∧
    bytes key = d.take 64 ++ List.replicate (64 - d.length) 0x00#8) ∧
  ∀ key : Key, writeKeyFile key = bytes key ∧ (writeKeyFile key).length = 64 ∧
    loadKeyFile (some (writeKeyFile key)) = .ok key

/-! ## The datapath -/

/-- Xor, Add and Sub word by word, with no carry between words; `Zero` and `Reset`; and that Xor is the
exclusive or of the whole values (R57, R58, R59, R70). -/
def Obligations.WordwiseOperations : Prop :=
  ∀ (w : Nat) (a b c : Blk w),
    (∀ (i : Nat) (hi : i < 16),
      (blkXor a b)[i] = a[i] ^^^ b[i] ∧
      (blkAdd a b)[i].toNat = (a[i].toNat + b[i].toNat) % 2 ^ w ∧
      (blkSub a b)[i].toNat = (a[i].toNat + 2 ^ w - b[i].toNat) % 2 ^ w ∧
      (blkReset a)[i].toNat = 0 ∧ (blkZero w)[i].toNat = 0) ∧
    num (blkXor a b) = num a ^^^ num b ∧
    blkXor a a = blkZero w ∧ blkXor a (blkZero w) = a ∧ blkXor (blkXor a b) b = a ∧
    blkAdd a (blkZero w) = a ∧ blkAdd a b = blkAdd b a ∧
    blkAdd (blkAdd a b) c = blkAdd a (blkAdd b c) ∧
    blkSub a a = blkZero w ∧ blkSub (blkAdd a b) b = a ∧ blkAdd (blkSub a b) b = a ∧
    mmul a (blkZero w) = blkZero w ∧ mmul (blkZero w) a = blkZero w

/-- The inverse laws of XOR, Add and Subtract and of the four rotation pairs, in both orders, for every
width and every distance (R73). -/
def Obligations.AlgebraInverseLaws : Prop :=
  ∀ (w n : Nat) (a b : Blk w),
    blkXor (blkXor a b) b = a ∧ blkXor a (blkZero w) = a ∧
    blkSub (blkAdd a b) b = a ∧ blkAdd (blkSub a b) b = a ∧
    rotRowsDown n (rotRowsUp n a) = a ∧ rotRowsUp n (rotRowsDown n a) = a ∧
    rotColsRight n (rotColsLeft n a) = a ∧ rotColsLeft n (rotColsRight n a) = a ∧
    rotCellsRight n (rotCellsLeft n a) = a ∧ rotCellsLeft n (rotCellsRight n a) = a ∧
    rotBitsRight n (rotBitsLeft n a) = a ∧ rotBitsLeft n (rotBitsRight n a) = a

/-- Relations among the rotations: four cell rotations are one column rotation, the word rotations move
lanes and so pass through XOR, Add and Sub, and the bit rotations pass through XOR (R69). -/
def Obligations.RotationRelations : Prop :=
  ∀ (w n : Nat) (a b : Blk w),
    rotColsLeft n a = (rotCellsLeft n)^[4] a ∧ rotColsRight n a = (rotCellsRight n)^[4] a ∧
    (∀ rot ∈ [rotRowsUp n, rotRowsDown n, rotColsLeft n, rotColsRight n, rotCellsLeft n,
        rotCellsRight n],
      rot (blkXor a b) = blkXor (rot a) (rot b) ∧ rot (blkAdd a b) = blkAdd (rot a) (rot b) ∧
      rot (blkSub a b) = blkSub (rot a) (rot b)) ∧
    rotBitsLeft n (blkXor a b) = blkXor (rotBitsLeft n a) (rotBitsLeft n b) ∧
    rotBitsRight n (blkXor a b) = blkXor (rotBitsRight n a) (rotBitsRight n b)

/-- One-bit rotations word by word, and as arithmetic on the whole value: each word takes in the bit its
neighbour gives up (R67, R68; the spec's decision D11). -/
def Obligations.BitRotationsMoveOneBit : Prop :=
  ∀ (w : Nat) (a : Blk w), 0 < w →
    (∀ (i : Nat) (hi : i < 16),
      (rotBitsLeft 1 a)[i].toNat
        = a[i].toNat * 2 % 2 ^ w + a[(i + 1) % 16].toNat / 2 ^ (w - 1) ∧
      (rotBitsRight 1 a)[i].toNat
        = a[i].toNat / 2 + a[(i + 15) % 16].toNat % 2 * 2 ^ (w - 1)) ∧
    numNat (rotBitsLeft 1 a)
      = numNat a * 2 % 2 ^ (16 * w) + numNat a / 2 ^ (16 * w - 1) ∧
    numNat (rotBitsRight 1 a) = numNat a / 2 + numNat a % 2 * 2 ^ (16 * w - 1)

/-- The matrix product: its entries, its unit and zero, associativity and distributivity; and that it
neither commutes nor is injective (R60; the spec's decision D12). -/
def Obligations.MatrixProductLaws : Prop :=
  (∀ (w : Nat) (a b c : Blk w),
    (∀ (i : Nat) (hi : i < 16), (mmul a b)[i] = BitVec.ofNat w
      (((List.range 4).map fun k => (cell a (i % 4) k).toNat * (cell b k (i / 4)).toNat).sum)) ∧
    mmul a (blkId w) = a ∧ mmul (blkId w) a = a ∧
    mmul a (blkZero w) = blkZero w ∧ mmul (blkZero w) a = blkZero w ∧
    mmul (mmul a b) c = mmul a (mmul b c) ∧
    mmul (blkAdd a b) c = blkAdd (mmul a c) (mmul b c) ∧
    mmul a (blkAdd b c) = blkAdd (mmul a b) (mmul a c)) ∧
  (∃ a b : Block, mmul a b ≠ mmul b a) ∧
  ∃ a b c : Block, a ≠ b ∧ mmul a c = mmul b c

/-- SubBytes replaces each byte of the byte string by its SBox entry, for every table applied to bytes (R81;
the spec's decision D15); under every parameter record it works on each byte of the byte string alone. -/
def Obligations.SubBytesActsOnTheByteString : Prop :=
  ∀ (P : Params) (b : Block), bytes (subBytes P b) = (bytes b).map (subByte P) ∧
    (P.sboxGran = .byte → bytes (subBytes P b) = (bytes b).map P.sbox)

/-- The expansion is three self-multiplications with a copy rotated right; it maps zero to zero and is
not injective (R82; the spec's decision D14). -/
def Obligations.ExpansionLoopsThreeTimes : Prop :=
  (∀ h : Halfblock,
    let x0 := zeroExtend h
    let x1 := mmul x0 (rotBitsRight 1 x0)
    let x2 := mmul x1 (rotBitsRight 1 x1)
    expand Config.device h = mmul x2 (rotBitsRight 1 x2)) ∧
  (∀ (P : Params) (w : Nat), expand P (blkZero w) = blkZero 32) ∧
  ∃ g h : Halfblock, g ≠ h ∧ expand Config.device g = expand Config.device h

/-- The reduction keeps the low 16 bits of each word, undoes zero extension, and passes through Add and
the matrix product (R84; the spec's decision D13). -/
def Obligations.ReductionLaws : Prop :=
  (∀ (b : Block) (i : Nat) (hi : i < 16), (reduce Config.device b : Halfblock)[i] = b[i].extractLsb' 0 16) ∧
  (∀ h : Halfblock, reduce Config.device (zeroExtend h) = h) ∧
  ∀ a b : Block,
    (reduce Config.device (blkAdd a b) : Halfblock)
      = blkAdd (reduce Config.device a) (reduce Config.device b) ∧
    (reduce Config.device (mmul a b) : Halfblock)
      = mmul (reduce Config.device a) (reduce Config.device b)

/-- The split is the binary string cut in the middle, and the length check of construction from a string
never fails there (R87, R155; the spec's decision D16). -/
def Obligations.SplitCutsTheBinaryString : Prop :=
  ∀ b : Block, halfblockFromBin ((bin b).take 256) = .ok (split b).1 ∧
    halfblockFromBin ((bin b).drop 256) = .ok (split b).2

/-- Split and combine undo each other, both ways (R88, R89; the spec's decision D16). -/
def Obligations.SplitAndCombineUndoEachOther : Prop := Config.byBinaryString.lawful

/-- The key schedule: the first key is the seed, and each later key is one step from the key before it:
rows up; three times a bit rotation right and a product by the previous key; cells right; the sum with
it; columns right; the exclusive or with it (R90, R91). That the previous key is the right factor of the
product is the spec's decision D12 (R60; log entry 17). -/
def Obligations.ScheduleStepsFromTheSeed : Prop :=
  ∀ (P : Params) (seed : Key), (keySchedule P seed)[0] = seed ∧
    ∀ (i : Nat) (hi : i < 64), 1 ≤ i →
      let prev := (keySchedule P seed)[i - 1]
      let mix := fun x => mmul (rotBitsRight P.bitRotStep x) prev
      (keySchedule P seed)[i] = blkXor (rotColsRight P.rotStep (blkAdd (rotCellsRight P.rotStep
        (mix (mix (mix (rotRowsUp P.rotStep prev))))) prev)) prev

/-- The ratchet: the keyset becomes the schedule of its own last key, which is then its first key; the
seed copy ends zero and nothing else moves; a zero last key gives a zero keyset; it is the new keyset
of every `Run`, in both directions; and an Encipher and a Decipher session from one key hold equal
keysets after equal numbers of blocks (R93). -/
def Obligations.RatchetReseedsFromTheLastKey : Prop :=
  (∀ (P : Params) (s : State),
    s.ratchet P = { s with ks := keySchedule P s.ks[63], seed := blkZero 32 } ∧
    (s.ratchet P).ks[0] = s.ks[63] ∧
    (s.ks[63] = blkZero 32 → (s.ratchet P).ks = zeroKeyset)) ∧
  (∀ (P : Params) (ks : Keyset) (b : Block) (dir : Direction),
    (run P ks b dir).2 = keySchedule P ks[63]) ∧
  ∀ (key : Key) (s t : State) (x y : List Block), s.idle → t.idle → x.length = y.length →
    (transactAll (sessionStart .encipher key s) (digestFrames x)).1.ks
      = (transactAll (sessionStart .decipher key t) (digestFrames y)).1.ks

/-- The all-zero key: its schedule and its IV are zero, and so is the cipher of a zero block under an
all-zero keyset, for every SBox (R91, R92, R112, R114). -/
def Obligations.AllZeroKeyStaysZero : Prop :=
  ∀ sbox : Byte → Byte,
    let P : Params := Config.decided sbox
    schedStep P (blkZero 32) = blkZero 32 ∧ keySchedule P (blkZero 32) = zeroKeyset ∧
    run P zeroKeyset (blkZero 32) .encipher = (blkZero 32, zeroKeyset) ∧
    ivOf P (blkZero 32) = blkZero 32

/-- `Run` has 64 rounds; round `i` uses key `i` when enciphering and key `63 - i` when deciphering
(R100). -/
def Obligations.RoundKeyOrder : Prop :=
  ∀ (P : Params) (w : Nat) (ks : Keyset) (h : Halves w),
    rounds P ks .encipher h
      = (List.range 64).foldl (fun h i => encRound P h (ks.toList.getD i (blkZero 32))) h ∧
    rounds P ks .decipher h
      = (List.range 64).foldl (fun h i => decRound P h (ks.toList.getD (63 - i) (blkZero 32))) h

/-- The avalanche transform and its inverse sequence, step by step, and that each undoes the other under
one key, for every parameter record (R104, R105). -/
def Obligations.UnavalancheUndoesAvalanche : Prop :=
  ∀ (P : Params) (w : Nat) (h : Blk w) (k : Key),
    avalanche P h k = blkAdd (rotColsLeft P.rotStep (rotBitsLeft P.bitRotStep
      (rotCellsRight P.rotStep (rotRowsUp P.rotStep h)))) (reduce P k) ∧
    unavalanche P h k = rotRowsDown P.rotStep (rotCellsLeft P.rotStep
      (rotBitsRight P.bitRotStep (rotColsRight P.rotStep (blkSub h (reduce P k))))) ∧
    unavalanche P (avalanche P h k) k = h ∧ avalanche P (unavalanche P h k) k = h

/-- The two rounds: `F` is applied to the old `R` when enciphering and to the un-avalanched `R` when
deciphering; and the decipher round undoes the encipher round with the halves exchanged: if
`(l', r')` is the encipher round's result on `(l, r)`, then the decipher round takes `(r', l')` to
`(r, l)`; for every parameter record (R101, R102). -/
def Obligations.DecRoundUndoesEncRound : Prop :=
  ∀ (P : Params) (w : Nat) (h : Halves w) (k : Key) (t : Blk w),
    (encRound P h k).l = avalanche P h.r k ∧
    (encRound P h k).r = blkXor h.l (roundF P h.r k) ∧
    (decRound P h k).l = unavalanche P h.r k ∧
    (decRound P h k).r = blkXor h.l (roundF P (unavalanche P h.r k) k) ∧
    let e := encRound P h k
    let d := decRound P { l := e.r, r := e.l, t := t } k
    d.l = h.r ∧ d.r = h.l

/-- `F` of a zero half is zero under every key and table; `F` under the zero key is the product of the
constant half made of `P.SBOX[0]` by the input (R98; the spec's decisions D12, D13). -/
def Obligations.RoundFunctionCorners : Prop :=
  (∀ (P : Params) (w : Nat) (k : Key), roundF P (blkZero w) k = blkZero w) ∧
  ∀ (sbox : Byte → Byte) (m : Halfblock),
    roundF (Config.decided sbox) m (blkZero 32)
      = mmul (Vector.replicate 16 (sbox 0#8 ++ sbox 0#8 : BitVec 16)) m

/-- Deciphering undoes enciphering and the other way round, for every keyset, from the schedule or not,
and every parameter record with the swapped recombination and a layout that loses nothing; both
leave the same keyset (R106, R108, R109; `FINAL_SWAP` is the spec's decision D17). -/
def Obligations.RunRoundTrip : Prop :=
  ∀ (P : Params) (ks : Keyset) (b : Block), P.finalSwap = true → P.splitLayout.lawful →
    (run P ks (run P ks b .encipher).1 .decipher).1 = b ∧
    (run P ks (run P ks b .decipher).1 .encipher).1 = b ∧
    (run P ks b .encipher).2 = keySchedule P ks[63] ∧
    (run P ks b .decipher).2 = keySchedule P ks[63]

/-! ## Sessions -/

/-- The keyset depends on the number of blocks processed and on nothing else: after the `DIGEST`s of any
blocks, in either direction, it is the schedule re-run so many times from its own last key (R24,
R93). -/
def Obligations.KeysetIgnoresTheData : Prop :=
  ∀ (s : State) (blocks : List Block), s.idle → s.live = true →
    (transactAll s (digestFrames blocks)).1.ks
      = (fun ks : Keyset => keySchedule Config.device ks[63])^[blocks.length] s.ks

/-- The round trip of a message of any length through two fresh sessions with one key, each from any
idle core (R116; the SBox is any table). -/
def Obligations.MessageRoundTrip : Prop :=
  ∀ (key : Key) (blocks : List Block) (s t : State), s.idle → t.idle →
    messageOutputs .decipher key (messageOutputs .encipher key blocks s) t = blocks

/-- Chaining in the Encipher direction: two messages under one key that agree before block `j` have
equal ciphertext blocks there, and if they differ at block `j` their ciphertext blocks `j`
differ, whatever follows (R118). -/
def Obligations.CiphertextChains : Prop :=
  ∀ (key : Key) (s : State) (common rest rest' : List Block) (x y : Block), s.idle → x ≠ y →
    let out := messageOutputs .encipher key (common ++ x :: rest) s
    let out' := messageOutputs .encipher key (common ++ y :: rest') s
    out.take common.length = out'.take common.length ∧
      out[common.length]? ≠ out'[common.length]?

/-- In the Decipher direction an altered ciphertext block `j` changes the cleartext blocks `j` and
`j + 1` only (R118). -/
def Obligations.AlteredCiphertextIsConfined : Prop :=
  ∀ (key : Key) (s : State) (front rest : List Block) (x y : Block), s.idle →
    let m := messageOutputs .decipher key (front ++ x :: rest) s
    let m' := messageOutputs .decipher key (front ++ y :: rest) s
    ∀ k, k ≠ front.length → k ≠ front.length + 1 → m[k]? = m'[k]?

/-! ## Clients at the boundary -/

/-- One block of KeyedHash on a live Encipher core: `REKEY` then `DIGEST` with the data as key and as
block (R127; that `REKEY` keeps `LAST` is the spec's decision D19). -/
def Obligations.HashBlockUsesTheDataAsKey : Prop :=
  ∀ (data : Block) (k : KeyedHash), k.core.idle → k.core.live = true → k.core.dir = .encipher →
    let c := (run Config.device (keySchedule Config.device data) (blkXor data k.core.last)
      .encipher).1
    (hashDigestBlock data k).hashsum = blkXor k.hashsum c ∧
    (hashDigestBlock data k).core.last = c ∧
    (hashDigestBlock data k).core.ks
      = keySchedule Config.device (keySchedule Config.device data)[63] ∧
    (hashDigestBlock data k).core.idle ∧ (hashDigestBlock data k).core.live = true ∧
    (hashDigestBlock data k).core.dir = .encipher

/-- One draw of a bit: a cursor at 512 is exhausted, and the hasher then digests the hash output exclusive
or the seed before the bit is read; the bit is the one the host parameter names for the cursor; the
cursor moves on by one and stays in 0..512; the seed never moves (R131). That the exhausted cursor is
512 is the spec's resolution C3 (log entry 17); that `BIT_AT` names a place in `Num(hashsum)` counted
from the least significant end is the model's choice (log entry 11). -/
def Obligations.BitCursorStaysInRange : Prop :=
  ∀ (h : HostParams) (g : Prng), g.nextBit ≤ 512 →
    (prngGetBit h g).1.nextBit ≤ 512 ∧ (prngGetBit h g).1.seed = g.seed ∧
    (g.nextBit < 512 → (prngGetBit h g).1.nextBit = g.nextBit + 1 ∧
      (prngGetBit h g).1.hasher = g.hasher ∧
      (prngGetBit h g).2 = (num g.hasher.hashsum).getLsbD (h.bitAt g.nextBit).val) ∧
    (g.nextBit = 512 →
      let next := hashDigestBlock (blkXor g.hasher.hashsum g.seed) g.hasher
      (prngGetBit h g).1.nextBit = 1 ∧ (prngGetBit h g).1.hasher = next ∧
      (prngGetBit h g).2 = (num next.hashsum).getLsbD (h.bitAt 0).val)

/-- A ciphertext stream whose length is not a multiple of 64 is the calling layer's invalid argument;
one that is a multiple is cut into whole blocks with nothing lost (R156, R179). -/
def Obligations.CiphertextStreamsAreWholeBlocks : Prop :=
  ∀ bs : List Byte,
    (bs.length % 64 ≠ 0 → ciphertextBlocks bs = .error (.invalidArgument bs.length)) ∧
    (bs.length % 64 = 0 → ∃ blocks, ciphertextBlocks bs = .ok blocks ∧ blocks.flatMap bytes = bs)

/-! ## Every parameter record -/

/-- The round trip of a message for every parameter record, at both ends the same (R116, R177): whatever
the SBox, its granularity, the width of a Halfblock word, the rotation distances, the reduction and
the reading of the IV; of the layout only that it loses nothing (R89), and with the swapped
recombination, which R108 needs (the spec's decision D17). -/
def Obligations.MessageRoundTripForEveryRecord : Prop :=
  ∀ (P : Params) (key : Key) (blocks : List Block) (s t : State),
    P.finalSwap = true → P.splitLayout.lawful → s.idle → t.idle →
    messageOutputsWith P .decipher key (messageOutputsWith P .encipher key blocks s) t = blocks
end

