-- ==== Sys2Proof/Laws/Algebra.lean ====
section
/-! SUPPORT. What one word of each BlockAlgebra result is, and that `Num` and `FromNum` undo each other. -/

namespace Sys2Proof.Machine

/-- Two values with the same words at every row and column are equal (R71). -/
theorem blk_ext_cell {w : Nat} {a b : Blk w}
    (h : ∀ r < 4, ∀ c < 4, cell a r c = cell b r c) : a = b := by
  apply Vector.ext
  intro i hi
  have key := h (i % 4) (Nat.mod_lt _ (by decide)) (i / 4) (by omega)
  have e : 4 * (i / 4 % 4) + i % 4 % 4 = i := by omega
  simpa only [cell, e] using key

@[simp] theorem getElem_ofCells {w : Nat} (f : Nat → Nat → BitVec w) (i : Nat) (hi : i < 16) :
    (ofCells f)[i] = f (i % 4) (i / 4) := by
  simp [ofCells]

/-- The matrix view of a value given by its cells; both coordinates count modulo 4. -/
@[simp] theorem cell_ofCells {w : Nat} (f : Nat → Nat → BitVec w) (r c : Nat) :
    cell (ofCells f) r c = f (r % 4) (c % 4) := by
  have e1 : (4 * (c % 4) + r % 4) % 4 = r % 4 := by omega
  have e2 : (4 * (c % 4) + r % 4) / 4 = c % 4 := by omega
  simp [cell, e1, e2]

@[simp] theorem cell_mod_row {w : Nat} (a : Blk w) (r c : Nat) : cell a (r % 4) c = cell a r c := by
  simp [cell]

@[simp] theorem cell_mod_col {w : Nat} (a : Blk w) (r c : Nat) : cell a r (c % 4) = cell a r c := by
  simp [cell]

@[simp] theorem getElem_blkZero {w : Nat} (i : Nat) (hi : i < 16) : (blkZero w)[i] = 0 := by
  simp [blkZero]

@[simp] theorem cell_blkZero {w : Nat} (r c : Nat) : cell (blkZero w) r c = 0 := by
  simp [cell]

@[simp] theorem getElem_blkXor {w : Nat} (a b : Blk w) (i : Nat) (hi : i < 16) :
    (blkXor a b)[i] = a[i] ^^^ b[i] := by
  simp [blkXor]

@[simp] theorem getElem_blkAdd {w : Nat} (a b : Blk w) (i : Nat) (hi : i < 16) :
    (blkAdd a b)[i] = a[i] + b[i] := by
  simp [blkAdd]

@[simp] theorem getElem_blkSub {w : Nat} (a b : Blk w) (i : Nat) (hi : i < 16) :
    (blkSub a b)[i] = a[i] - b[i] := by
  simp [blkSub]

@[simp] theorem getElem_rotCellsLeft {w : Nat} (n : Nat) (a : Blk w) (i : Nat) (hi : i < 16) :
    (rotCellsLeft n a)[i] = a[(i + n) % 16] := by
  simp [rotCellsLeft]

@[simp] theorem getElem_rotCellsRight {w : Nat} (n : Nat) (a : Blk w) (i : Nat) (hi : i < 16) :
    (rotCellsRight n a)[i] = a[(i + 15 * n) % 16] := by
  simp [rotCellsRight]

@[simp] theorem cell_rotRowsUp {w : Nat} (n : Nat) (a : Blk w) (r c : Nat) :
    cell (rotRowsUp n a) r c = cell a (r % 4 + n) c := by
  simp [rotRowsUp]

@[simp] theorem cell_rotRowsDown {w : Nat} (n : Nat) (a : Blk w) (r c : Nat) :
    cell (rotRowsDown n a) r c = cell a (r % 4 + 3 * n) c := by
  simp [rotRowsDown]

@[simp] theorem cell_rotColsLeft {w : Nat} (n : Nat) (a : Blk w) (r c : Nat) :
    cell (rotColsLeft n a) r c = cell a r (c % 4 + n) := by
  simp [rotColsLeft]

@[simp] theorem cell_rotColsRight {w : Nat} (n : Nat) (a : Blk w) (r c : Nat) :
    cell (rotColsRight n a) r c = cell a r (c % 4 + 3 * n) := by
  simp [rotColsRight]

/-- An entry of the product, reduced word by word: sums and products in `BitVec w`. -/
theorem cell_mmul {w : Nat} (a b : Blk w) (r c : Nat) :
    cell (mmul a b) r c =
      cell a r 0 * cell b 0 c + cell a r 1 * cell b 1 c + cell a r 2 * cell b 2 c
        + cell a r 3 * cell b 3 c := by
  simp [mmul, cellProduct, BitVec.ofNat_add, BitVec.ofNat_mul]

/-- The numeral of a list of words, in the form an induction needs. -/
theorem foldl_numeral {w : Nat} (l : List (BitVec w)) (n : Nat) :
    l.foldl (fun n x => n * 2 ^ w + x.toNat) n
      = n * 2 ^ (w * l.length) + l.foldl (fun n x => n * 2 ^ w + x.toNat) 0 := by
  induction l generalizing n with
  | nil => simp
  | cons x l ih =>
    rw [List.foldl_cons, List.foldl_cons, ih, ih (0 * 2 ^ w + x.toNat), List.length_cons, Nat.mul_succ,
      Nat.pow_add]
    ring

/-- A numeral of `n` words is below `2^(w*n)`. -/
theorem foldl_numeral_lt {w : Nat} (l : List (BitVec w)) :
    l.foldl (fun n x => n * 2 ^ w + x.toNat) 0 < 2 ^ (w * l.length) := by
  induction l with
  | nil => simp
  | cons x l ih =>
    rw [List.foldl_cons, foldl_numeral, List.length_cons, Nat.mul_succ, Nat.pow_add]
    have hx := x.isLt
    have h2 : (0 * 2 ^ w + x.toNat + 1) * 2 ^ (w * l.length) ≤ 2 ^ w * 2 ^ (w * l.length) :=
      Nat.mul_le_mul_right _ (by omega)
    nlinarith

/-- Bit `w*k + j` of a numeral is bit `j` of the word that stands `k` places from its end. -/
theorem testBit_numeral {w : Nat} (l : List (BitVec w)) (k j : Nat) (hj : j < w)
    (hk : k < l.length) :
    (l.foldl (fun (n : Nat) (x : BitVec w) => n * 2 ^ w + x.toNat) 0).testBit (w * k + j)
      = (l[l.length - 1 - k]'(by omega)).getLsbD j := by
  induction l with
  | nil => simp at hk
  | cons x l ih =>
    rw [List.foldl_cons, foldl_numeral, Nat.zero_mul, Nat.zero_add, Nat.mul_comm x.toNat]
    have hlt := foldl_numeral_lt l
    rw [Nat.testBit_two_pow_mul_add _ hlt]
    by_cases hc : k < l.length
    · have h1 : w * k + j < w * l.length := by
        have : w * (k + 1) ≤ w * l.length := Nat.mul_le_mul_left _ hc
        rw [Nat.mul_succ] at this; omega
      have h2 : l.length + 1 - 1 - k = (l.length - 1 - k) + 1 := by omega
      simp only [h1, if_true, ih hc, List.length_cons, h2, List.getElem_cons_succ]
    · have hke : k = l.length := by simp at hk; omega
      subst hke
      have h1 : ¬ w * l.length + j < w * l.length := by omega
      simp [BitVec.getLsbD]

/-- `Num(b)` fits in `16*w` bits. -/
theorem numNat_lt {w : Nat} (b : Blk w) : numNat b < 2 ^ (16 * w) := by
  have := foldl_numeral_lt b.toList
  simpa [numNat, Nat.mul_comm] using this

@[simp] theorem toNat_num {w : Nat} (b : Blk w) : (num b).toNat = numNat b := by
  simp [num, Nat.mod_eq_of_lt (numNat_lt b)]

/-- Bit `w*(15-i) + j` of `Num(b)` is bit `j` of word `i` (R7). -/
theorem getLsbD_num {w : Nat} (b : Blk w) (i j : Nat) (hi : i < 16) (hj : j < w) :
    (num b).getLsbD (w * (15 - i) + j) = b[i].getLsbD j := by
  rw [← BitVec.testBit_toNat, toNat_num, numNat, testBit_numeral _ _ _ hj (by simp; omega)]
  congr 1
  have : 16 - 1 - (15 - i) = i := by omega
  simp [this]

@[simp] theorem getElem_fromNum {w : Nat} (n : BitVec (16 * w)) (i : Nat) (hi : i < 16) :
    (fromNum n)[i] = n.extractLsb' (w * (15 - i)) w := by
  simp [fromNum]

/-- `FromNum_w(Num(b)) = b` (R7). -/
@[simp] theorem fromNum_num {w : Nat} (b : Blk w) : fromNum (num b) = b := by
  ext i hi j hj
  rw [getElem_fromNum, BitVec.getElem_extractLsb', getLsbD_num b i j hi hj, BitVec.getLsbD_eq_getElem]

/-- `Num(FromNum_w(n)) = n` (R7). -/
@[simp] theorem num_fromNum {w : Nat} (n : BitVec (16 * w)) : num (fromNum n) = n := by
  apply BitVec.eq_of_getLsbD_eq
  intro k hk
  have hw : 0 < w := by
    rcases Nat.eq_zero_or_pos w with h | h
    · subst h; omega
    · exact h
  have hq : k / w < 16 := (Nat.div_lt_iff_lt_mul hw).2 hk
  have hr : k % w < w := Nat.mod_lt _ hw
  obtain ⟨q, hqe⟩ : ∃ q, k / w = q := ⟨_, rfl⟩
  rw [hqe] at hq
  have e : w * (15 - (15 - q)) + k % w = k := by
    have : 15 - (15 - q) = k / w := by omega
    rw [this]; exact Nat.div_add_mod k w
  have key := getLsbD_num (fromNum n) (15 - q) (k % w) (by omega) hr
  rw [e] at key
  rw [key, getElem_fromNum, BitVec.getLsbD_extractLsb', e]
  simp [hr]

end Sys2Proof.Machine
end

