-- ==== Sys2Proof/Laws/Frames.lean ====
section
/-! SUPPORT. A frame's head and payload are what it was built from (30_encoding.md R41). -/

namespace Sys2Proof.Machine

/-- The four bytes of a word, most significant first, are the word (R27). -/
theorem wordByte_append (x : BitVec 32) :
    (wordByte x 0 ++ wordByte x 1 ++ wordByte x 2 ++ wordByte x 3 : BitVec 32) = x := by
  apply BitVec.eq_of_getLsbD_eq
  intro j hj
  simp only [wordByte, BitVec.getLsbD_append, BitVec.getLsbD_extractLsb']
  by_cases h1 : j < 8
  · simp [h1]
  · by_cases h2 : j - 8 < 8
    · have : 8 + (j - 8) = j := by omega
      simp [h1, h2, this]
    · by_cases h3 : j - 8 - 8 < 8
      · have : 16 + (j - 8 - 8) = j := by omega
        simp [h1, h2, h3, this]
      · have : 24 + (j - 8 - 8 - 8) = j := by omega
        have h4 : j - 8 - 8 - 8 < 8 := by omega
        simp [h1, h2, h3, h4, this]

@[simp] theorem frameHead_frameOf (head : Byte) (pay : Block) : frameHead (frameOf head pay) = head := by
  simp [frameHead, frameOf]

/-- Byte `1 + 4*i + k` of a frame is byte `k` of word `i` of its payload (R41). -/
theorem getElem_frameOf (head : Byte) (pay : Block) (i k : Nat) (hi : i < 16) (hk : k < 4) :
    (frameOf head pay)[1 + 4 * i + k] = wordByte pay[i] k := by
  have h1 : (1 + 4 * i + k - 1) / 4 = i := by omega
  have h2 : (1 + 4 * i + k - 1) % 4 = k := by omega
  simp [frameOf, h1, h2]

@[simp] theorem framePayload_frameOf (head : Byte) (pay : Block) :
    framePayload (frameOf head pay) = pay := by
  apply Vector.ext
  intro i hi
  have e0 := getElem_frameOf head pay i 0 hi (by decide)
  have e1 := getElem_frameOf head pay i 1 hi (by decide)
  have e2 := getElem_frameOf head pay i 2 hi (by decide)
  have e3 := getElem_frameOf head pay i 3 hi (by decide)
  have c1 : 1 + 4 * i + 1 = 2 + 4 * i := by omega
  have c2 : 1 + 4 * i + 2 = 3 + 4 * i := by omega
  have c3 : 1 + 4 * i + 3 = 4 + 4 * i := by omega
  simp only [Nat.add_zero, c1, c2, c3] at e0 e1 e2 e3
  simp only [framePayload, Vector.getElem_ofFn]
  rw [e0, e1, e2, e3]
  exact wordByte_append _

/-- A frame is built from its own head and payload (R41). -/
theorem frameOf_head_payload (f : Frame) : frameOf (frameHead f) (framePayload f) = f := by
  apply Vector.ext
  intro k hk
  rcases Nat.eq_zero_or_pos k with h | h
  · subst h; simp [frameOf, frameHead]
  · obtain ⟨i, j, hi, hj, rfl⟩ : ∃ i j, i < 16 ∧ j < 4 ∧ k = 1 + 4 * i + j :=
      ⟨(k - 1) / 4, (k - 1) % 4, by omega, by omega, by omega⟩
    rw [getElem_frameOf _ _ i j hi hj]
    apply BitVec.eq_of_getLsbD_eq
    intro b hb
    simp only [framePayload, Vector.getElem_ofFn, wordByte, BitVec.getLsbD_extractLsb',
      BitVec.getLsbD_append, hb, decide_true, Bool.true_and]
    interval_cases j
    · have c1 : ¬ 24 + b < 8 := by omega
      have c2 : ¬ 24 + b - 8 < 8 := by omega
      have c3 : ¬ 24 + b - 8 - 8 < 8 := by omega
      have c4 : 24 + b - 8 - 8 - 8 = b := by omega
      simp [c1, c2, c3, c4]
    · have c1 : ¬ 16 + b < 8 := by omega
      have c2 : ¬ 16 + b - 8 < 8 := by omega
      have c3 : 16 + b - 8 - 8 = b := by omega
      have c5 : 1 + 4 * i + 1 = 2 + 4 * i := by omega
      simp [c1, c2, c3, c5, hb]
    · have c1 : ¬ 8 + b < 8 := by omega
      have c2 : 8 + b - 8 = b := by omega
      have c5 : 1 + 4 * i + 2 = 3 + 4 * i := by omega
      simp [c1, c2, c5, hb]
    · have c5 : 1 + 4 * i + 3 = 4 + 4 * i := by omega
      simp [c5, hb]

end Sys2Proof.Machine
end

