-- ==== Sys2Proof/Laws/Schedule.lean ====
section
/-! SUPPORT. Each key of a schedule, and the list of round keys of a `Run`. -/

namespace Sys2Proof.Machine

theorem getElem_scheduleList (P : Params) (n : Nat) (seed : Key) (i : Nat)
    (hi : i < (scheduleList P n seed).length) :
    (scheduleList P n seed)[i] = (schedStep P)^[i] seed := by
  induction n generalizing seed i with
  | zero => simp [scheduleList] at hi
  | succ n ih =>
    cases i with
    | zero => rfl
    | succ i =>
      simp only [scheduleList, List.getElem_cons_succ, Function.iterate_succ, Function.comp_apply]
      exact ih _ _ _

/-- `KeySchedule(seed)[i]` is `SchedStep` applied `i` times (R90, R92 (c)). -/
theorem getElem_keySchedule (P : Params) (seed : Key) (i : Nat) (hi : i < 64) :
    (keySchedule P seed)[i] = (schedStep P)^[i] seed := by
  simp only [keySchedule, Vector.getElem_mk, List.getElem_toArray]
  exact getElem_scheduleList P 64 seed i _

@[simp] theorem getElem_zeroKeyset (i : Nat) (hi : i < 64) : zeroKeyset[i] = blkZero 32 := by
  simp [zeroKeyset]

@[simp] theorem map_reset_keyset (ks : Keyset) : ks.map blkReset = zeroKeyset := by
  apply Vector.ext
  intro i hi
  simp [blkReset, zeroKeyset]

/-- The half registers hold halves of the decided width as they are (R16). -/
@[simp] theorem registerHalves_self (h : Halves 16) : registerHalves h = h := by
  cases h
  simp [registerHalves]

@[simp] theorem length_roundKeys (ks : Keyset) (dir : Direction) : (roundKeys ks dir).length = 64 := by
  cases dir <;> simp [roundKeys]

end Sys2Proof.Machine
end

