-- ==== Sys2Proof/Laws/State.lean ====
section
/-! SUPPORT. One lemma for each field of the state and each named operation on it, so that no later proof
unfolds a record update. -/

namespace Sys2Proof.Machine

@[simp] theorem respond_ks (st : Byte) (p : Block) (s : State) : (s.respond st p).ks = s.ks := rfl
@[simp] theorem respond_last (st : Byte) (p : Block) (s : State) : (s.respond st p).last = s.last := rfl
@[simp] theorem respond_dir (st : Byte) (p : Block) (s : State) : (s.respond st p).dir = s.dir := rfl
@[simp] theorem respond_live (st : Byte) (p : Block) (s : State) : (s.respond st p).live = s.live := rfl
@[simp] theorem respond_halves (st : Byte) (p : Block) (s : State) : (s.respond st p).halves = s.halves := rfl
@[simp] theorem respond_seed (st : Byte) (p : Block) (s : State) : (s.respond st p).seed = s.seed := rfl
@[simp] theorem respond_tks (st : Byte) (p : Block) (s : State) : (s.respond st p).tks = s.tks := rfl
@[simp] theorem respond_cmd (st : Byte) (p : Block) (s : State) : (s.respond st p).cmd = none := rfl
@[simp] theorem respond_rsp (st : Byte) (p : Block) (s : State) : (s.respond st p).rsp = some (frameOf st p) := rfl

@[simp] theorem raise_ks (e : CoreError) (s : State) : (s.raise e).ks = s.ks := rfl
@[simp] theorem raise_last (e : CoreError) (s : State) : (s.raise e).last = s.last := rfl
@[simp] theorem raise_dir (e : CoreError) (s : State) : (s.raise e).dir = s.dir := rfl
@[simp] theorem raise_live (e : CoreError) (s : State) : (s.raise e).live = s.live := rfl
@[simp] theorem raise_halves (e : CoreError) (s : State) : (s.raise e).halves = s.halves := rfl
@[simp] theorem raise_seed (e : CoreError) (s : State) : (s.raise e).seed = s.seed := rfl
@[simp] theorem raise_tks (e : CoreError) (s : State) : (s.raise e).tks = s.tks := rfl
@[simp] theorem raise_cmd (e : CoreError) (s : State) : (s.raise e).cmd = none := rfl
@[simp] theorem raise_rsp (e : CoreError) (s : State) : (s.raise e).rsp = some (frameOf (errCode e) (blkZero 32)) := rfl

@[simp] theorem zeroKeys_ks (s : State) : (s.zeroKeys).ks = zeroKeyset := map_reset_keyset s.ks
@[simp] theorem zeroKeys_last (s : State) : (s.zeroKeys).last = s.last := rfl
@[simp] theorem zeroKeys_dir (s : State) : (s.zeroKeys).dir = s.dir := rfl
@[simp] theorem zeroKeys_live (s : State) : (s.zeroKeys).live = s.live := rfl
@[simp] theorem zeroKeys_halves (s : State) : (s.zeroKeys).halves = s.halves := rfl
@[simp] theorem zeroKeys_seed (s : State) : (s.zeroKeys).seed = s.seed := rfl
@[simp] theorem zeroKeys_tks (s : State) : (s.zeroKeys).tks = s.tks := rfl
@[simp] theorem zeroKeys_cmd (s : State) : (s.zeroKeys).cmd = s.cmd := rfl
@[simp] theorem zeroKeys_rsp (s : State) : (s.zeroKeys).rsp = s.rsp := rfl

@[simp] theorem loadSchedule_ks (P : Params) (k : Key) (s : State) : (s.loadSchedule P k).ks = keySchedule P k := rfl
@[simp] theorem loadSchedule_last (P : Params) (k : Key) (s : State) : (s.loadSchedule P k).last = s.last := rfl
@[simp] theorem loadSchedule_dir (P : Params) (k : Key) (s : State) : (s.loadSchedule P k).dir = s.dir := rfl
@[simp] theorem loadSchedule_live (P : Params) (k : Key) (s : State) : (s.loadSchedule P k).live = s.live := rfl
@[simp] theorem loadSchedule_halves (P : Params) (k : Key) (s : State) : (s.loadSchedule P k).halves = s.halves := rfl
@[simp] theorem loadSchedule_seed (P : Params) (k : Key) (s : State) : (s.loadSchedule P k).seed = s.seed := rfl
@[simp] theorem loadSchedule_tks (P : Params) (k : Key) (s : State) : (s.loadSchedule P k).tks = s.tks := rfl
@[simp] theorem loadSchedule_cmd (P : Params) (k : Key) (s : State) : (s.loadSchedule P k).cmd = s.cmd := rfl
@[simp] theorem loadSchedule_rsp (P : Params) (k : Key) (s : State) : (s.loadSchedule P k).rsp = s.rsp := rfl

@[simp] theorem ratchet_ks (P : Params) (s : State) : (s.ratchet P).ks = keySchedule P s.ks[63] := rfl
@[simp] theorem ratchet_last (P : Params) (s : State) : (s.ratchet P).last = s.last := rfl
@[simp] theorem ratchet_dir (P : Params) (s : State) : (s.ratchet P).dir = s.dir := rfl
@[simp] theorem ratchet_live (P : Params) (s : State) : (s.ratchet P).live = s.live := rfl
@[simp] theorem ratchet_halves (P : Params) (s : State) : (s.ratchet P).halves = s.halves := rfl
@[simp] theorem ratchet_seed (P : Params) (s : State) : (s.ratchet P).seed = blkZero 32 := rfl
@[simp] theorem ratchet_tks (P : Params) (s : State) : (s.ratchet P).tks = s.tks := rfl
@[simp] theorem ratchet_cmd (P : Params) (s : State) : (s.ratchet P).cmd = s.cmd := rfl
@[simp] theorem ratchet_rsp (P : Params) (s : State) : (s.ratchet P).rsp = s.rsp := rfl

@[simp] theorem runRounds_ks (P : Params) (net : Keyset) (b : Block) (d : Direction) (s : State) : ((s.runRounds P net b d).1).ks = s.ks := rfl
@[simp] theorem runRounds_last (P : Params) (net : Keyset) (b : Block) (d : Direction) (s : State) : ((s.runRounds P net b d).1).last = s.last := rfl
@[simp] theorem runRounds_dir (P : Params) (net : Keyset) (b : Block) (d : Direction) (s : State) : ((s.runRounds P net b d).1).dir = s.dir := rfl
@[simp] theorem runRounds_live (P : Params) (net : Keyset) (b : Block) (d : Direction) (s : State) : ((s.runRounds P net b d).1).live = s.live := rfl
@[simp] theorem runRounds_halves (P : Params) (net : Keyset) (b : Block) (d : Direction) (s : State) : ((s.runRounds P net b d).1).halves = registerHalves (rounds P net d (loadHalves P b)) := rfl
@[simp] theorem runRounds_seed (P : Params) (net : Keyset) (b : Block) (d : Direction) (s : State) : ((s.runRounds P net b d).1).seed = s.seed := rfl
@[simp] theorem runRounds_tks (P : Params) (net : Keyset) (b : Block) (d : Direction) (s : State) : ((s.runRounds P net b d).1).tks = s.tks := rfl
@[simp] theorem runRounds_cmd (P : Params) (net : Keyset) (b : Block) (d : Direction) (s : State) : ((s.runRounds P net b d).1).cmd = s.cmd := rfl
@[simp] theorem runRounds_rsp (P : Params) (net : Keyset) (b : Block) (d : Direction) (s : State) : ((s.runRounds P net b d).1).rsp = s.rsp := rfl

@[simp] theorem clearTransients_ks (s : State) : (s.clearTransients).ks = s.ks := rfl
@[simp] theorem clearTransients_last (s : State) : (s.clearTransients).last = s.last := rfl
@[simp] theorem clearTransients_dir (s : State) : (s.clearTransients).dir = s.dir := rfl
@[simp] theorem clearTransients_live (s : State) : (s.clearTransients).live = s.live := rfl
@[simp] theorem clearTransients_halves (s : State) : (s.clearTransients).halves = Halves.zero := rfl
@[simp] theorem clearTransients_seed (s : State) : (s.clearTransients).seed = blkZero 32 := rfl
@[simp] theorem clearTransients_tks (s : State) : (s.clearTransients).tks = zeroKeyset := map_reset_keyset s.tks
@[simp] theorem clearTransients_cmd (s : State) : (s.clearTransients).cmd = s.cmd := rfl
@[simp] theorem clearTransients_rsp (s : State) : (s.clearTransients).rsp = s.rsp := rfl

@[simp] theorem destroySession_ks (s : State) : (s.destroySession).ks = zeroKeyset := map_reset_keyset s.ks
@[simp] theorem destroySession_last (s : State) : (s.destroySession).last = blkZero 32 := rfl
@[simp] theorem destroySession_dir (s : State) : (s.destroySession).dir = .encipher := rfl
@[simp] theorem destroySession_live (s : State) : (s.destroySession).live = false := rfl
@[simp] theorem destroySession_halves (s : State) : (s.destroySession).halves = Halves.zero := rfl
@[simp] theorem destroySession_seed (s : State) : (s.destroySession).seed = blkZero 32 := rfl
@[simp] theorem destroySession_tks (s : State) : (s.destroySession).tks = zeroKeyset := map_reset_keyset s.tks
@[simp] theorem destroySession_cmd (s : State) : (s.destroySession).cmd = s.cmd := rfl
@[simp] theorem destroySession_rsp (s : State) : (s.destroySession).rsp = s.rsp := rfl

@[simp] theorem withFetchWord_ks (n w : Nat) (s : State) : (s.withFetchWord n w).ks = s.ks := rfl
@[simp] theorem withFetchWord_last (n w : Nat) (s : State) : (s.withFetchWord n w).last = s.last := rfl
@[simp] theorem withFetchWord_dir (n w : Nat) (s : State) : (s.withFetchWord n w).dir = s.dir := rfl
@[simp] theorem withFetchWord_live (n w : Nat) (s : State) : (s.withFetchWord n w).live = s.live := rfl
@[simp] theorem withFetchWord_halves (n w : Nat) (s : State) : (s.withFetchWord n w).halves = s.halves := rfl
@[simp] theorem withFetchWord_seed (n w : Nat) (s : State) : (s.withFetchWord n w).seed = s.seed := rfl
@[simp] theorem withFetchWord_tks (n w : Nat) (s : State) : (s.withFetchWord n w).tks = s.tks := rfl
@[simp] theorem withFetchWord_cmd (n w : Nat) (s : State) : (s.withFetchWord n w).cmd = some (tableFrame n w) := rfl
@[simp] theorem withFetchWord_rsp (n w : Nat) (s : State) : (s.withFetchWord n w).rsp = none := rfl

@[simp] theorem take_ks (s : State) : (s.take.1).ks = s.ks := rfl
@[simp] theorem take_last (s : State) : (s.take.1).last = s.last := rfl
@[simp] theorem take_dir (s : State) : (s.take.1).dir = s.dir := rfl
@[simp] theorem take_live (s : State) : (s.take.1).live = s.live := rfl
@[simp] theorem take_halves (s : State) : (s.take.1).halves = s.halves := rfl
@[simp] theorem take_seed (s : State) : (s.take.1).seed = s.seed := rfl
@[simp] theorem take_tks (s : State) : (s.take.1).tks = s.tks := rfl
@[simp] theorem take_cmd (s : State) : (s.take.1).cmd = s.cmd := rfl
@[simp] theorem take_rsp (s : State) : (s.take.1).rsp = none := rfl

@[simp] theorem reset_ks : State.reset.ks = zeroKeyset := rfl
@[simp] theorem reset_last : State.reset.last = blkZero 32 := rfl
@[simp] theorem reset_dir : State.reset.dir = .encipher := rfl
@[simp] theorem reset_live : State.reset.live = false := rfl
@[simp] theorem reset_halves : State.reset.halves = Halves.zero := rfl
@[simp] theorem reset_seed : State.reset.seed = blkZero 32 := rfl
@[simp] theorem reset_tks : State.reset.tks = zeroKeyset := rfl
@[simp] theorem reset_cmd : State.reset.cmd = none := rfl
@[simp] theorem reset_rsp : State.reset.rsp = none := rfl

@[simp] theorem take_rsp_out (s : State) : s.take.2 = s.rsp := rfl

/-- The output of the rounds on the half registers is that of `Run` (R106). -/
@[simp] theorem runRounds_out (P : Params) (net : Keyset) (b : Block) (d : Direction) (s : State) :
    (s.runRounds P net b d).2 = (run P net b d).1 := rfl

end Sys2Proof.Machine
end

