-- ==== Sys2Proof/Laws/Ops.lean ====
section
/-! SUPPORT. What each shared operation on the state can do, said once. -/

namespace Sys2Proof.Machine

/-- The ratchet writes the keyset and leaves the seed copy zero; nothing else moves (R93). -/
theorem ratchet_eq (P : Params) (s : State) :
    s.ratchet P = { s with ks := keySchedule P s.ks[63], seed := blkZero 32 } := rfl

/-- One `Run`'s rounds write the half registers and give `Run`'s output (R106). -/
theorem runRounds_eq (P : Params) (net : Keyset) (b : Block) (d : Direction) (s : State) :
    s.runRounds P net b d =
      ({ s with halves := registerHalves (rounds P net d (loadHalves P b)) }, (run P net b d).1) := rfl

/-- The end of a command leaves every transient register zero (R22). -/
theorem clearTransients_eq (s : State) :
    s.clearTransients = { s with halves := Halves.zero, seed := blkZero 32, tks := zeroKeyset } := by
  simp only [State.clearTransients, map_reset_keyset]
  rfl

/-- The end of a command writes the response and empties the command channel; nothing else moves (R34). -/
theorem respond_eq (status : Byte) (payload : Block) (s : State) :
    s.respond status payload = { s with cmd := none, rsp := some (frameOf status payload) } := rfl

/-- An error writes no register (R158). -/
theorem raise_eq (e : CoreError) (s : State) :
    s.raise e = { s with cmd := none, rsp := some (frameOf (errCode e) (blkZero 32)) } := rfl

/-- Zeroing writes the keyset only (R94). -/
theorem zeroKeys_eq (s : State) : s.zeroKeys = { s with ks := zeroKeyset } := by
  simp only [State.zeroKeys, map_reset_keyset]

/-- Loading a schedule writes the keyset only (R90, R117). -/
theorem loadSchedule_eq (P : Params) (key : Key) (s : State) :
    s.loadSchedule P key = { s with ks := keySchedule P key } := rfl

/-- Destroying a session leaves the reset state, channels apart (R119). -/
theorem destroySession_eq (s : State) :
    s.destroySession = { State.reset with cmd := s.cmd, rsp := s.rsp } := by
  simp only [State.destroySession, State.clearTransients, State.zeroKeys, map_reset_keyset]
  rfl

/-- On the session's network the IV's derivation writes `LAST` and ratchets the keyset (R112). -/
theorem deriveIv_session (P : Params) (h : P.ivTempNetwork = false) (key : Key) (s : State) :
    s.deriveIv P key =
      { s with
        ks := keySchedule P s.ks[63]
        halves := registerHalves (rounds P s.ks .encipher (loadHalves P key))
        seed := blkZero 32
        last := (run P s.ks key .encipher).1 } := by
  simp only [State.deriveIv, h, Bool.false_eq_true, if_false]
  rfl

/-- On a temporary network the IV's derivation writes `LAST`, leaves `TKS` zero and the session keyset as
it was (R112). -/
theorem deriveIv_temp (P : Params) (h : P.ivTempNetwork = true) (key : Key) (s : State) :
    s.deriveIv P key =
      { s with
        halves := registerHalves (rounds P (keySchedule P key) .encipher (loadHalves P key))
        tks := zeroKeyset
        last := ivOf P key } := by
  simp only [State.deriveIv, h, if_true, map_reset_keyset]
  rfl

/-- A command that needs a session runs its body when there is one (R113, R117). -/
theorem whenLive_live (body : State → State) (s : State) (h : s.live = true) :
    s.whenLive body = body s := by
  simp [State.whenLive, h]

/-- Without a session it raises `NotLive` (R153). -/
theorem whenLive_dead (body : State → State) (s : State) (h : s.live = false) :
    s.whenLive body = s.raise .notLive := by
  simp [State.whenLive, h]

/-- An idle core takes an offered frame (R34). -/
theorem offer_idle (f : Frame) (s : State) (hc : s.cmd = none) (hr : s.rsp = none) :
    s.offer f = { s with cmd := some f } := by
  simp [State.offer, State.cmdReady, hc, hr]

/-- A core that is not ready takes nothing (R34). -/
theorem offer_busy (f : Frame) (s : State) (h : s.cmdReady = false) : s.offer f = s := by
  simp [State.offer, h]

end Sys2Proof.Machine
end

