-- ==== Sys2Proof/Laws/PerInstr.lean ====
section
/-! SUPPORT. The statement made for each command as written text: the head of its frame has legal control
fields (30_encoding.md R43, R44, R46). -/

namespace Sys2Proof.Laws

/-- The control byte the encoder writes for `i` passes every check of R46. -/
def EncodedControl.Statement (i : Instr) : Prop :=
  (Machine.ctlFields (Machine.frameHead (encode i))).wf = true

theorem EncodedControl.status : EncodedControl.Statement .status := by
  simp only [EncodedControl.Statement, encode, Machine.frameHead_frameOf, ctlOf]; decide

theorem EncodedControl.initE (key : Key) : EncodedControl.Statement (.initE key) := by
  simp only [EncodedControl.Statement, encode, Machine.frameHead_frameOf, ctlOf]; decide

theorem EncodedControl.initD (key : Key) : EncodedControl.Statement (.initD key) := by
  simp only [EncodedControl.Statement, encode, Machine.frameHead_frameOf, ctlOf]; decide

theorem EncodedControl.digest (block : Block) : EncodedControl.Statement (.digest block) := by
  simp only [EncodedControl.Statement, encode, Machine.frameHead_frameOf, ctlOf]; decide

theorem EncodedControl.rekey (key : Key) : EncodedControl.Statement (.rekey key) := by
  simp only [EncodedControl.Statement, encode, Machine.frameHead_frameOf, ctlOf]; decide

theorem EncodedControl.zeroize : EncodedControl.Statement .zeroize := by
  simp only [EncodedControl.Statement, encode, Machine.frameHead_frameOf, ctlOf]; decide

end Sys2Proof.Laws
end

