-- ==== Sys2Proof/Laws/Record.lean ====
section
/-! SUPPORT. The core is the parametric machine at the device's record, and one transaction and one fold
step said once. -/

namespace Sys2Proof.Machine

/-- What the core's commands do is what they do under the device's record (R18, R121). -/
theorem exec_eq_execWith : exec = execWith Config.device := by
  funext i s
  cases i <;> rfl

/-- The core's step is the step under the device's record (R18, R121). -/
theorem step_eq_stepWith : step = stepWith Config.device := by
  funext s
  simp only [step, stepWith, exec_eq_execWith]

/-- A core with no command in progress holds its state (R162). -/
theorem stepBy_idle (execute : Instr → State → Host.Outcome State Fault Refusal) (s : State)
    (h : s.cmd = none) : stepBy execute s = .next s := by
  simp only [stepBy, h]

/-- A command that decodes is executed (R121). -/
theorem stepBy_command (execute : Instr → State → Host.Outcome State Fault Refusal) (s : State)
    (f : Frame) (i : Instr) (hc : s.cmd = some f) (hr : s.rsp = none) (hd : decode f = .ok i) :
    stepBy execute s = execute i s := by
  simp only [stepBy, hc, hr, hd]

/-- A frame that is no command is answered as illegal (R121, R152). -/
theorem stepBy_illegal (execute : Instr → State → Host.Outcome State Fault Refusal) (s : State)
    (f : Frame) (e : Reject) (hc : s.cmd = some f) (hr : s.rsp = none) (hd : decode f = .error e) :
    stepBy execute s = .next (s.raise .illegal) := by
  simp only [stepBy, hc, hr, hd]

/-- The fold of no frames (R36). -/
@[simp] theorem transactAllBy_nil (core : State → Host.Outcome State Fault Refusal) (s : State) :
    transactAllBy core s [] = (s, []) := rfl

/-- The fold of frames takes the first one's transaction first (R36). -/
@[simp] theorem transactAllBy_cons (core : State → Host.Outcome State Fault Refusal) (s : State)
    (f : Frame) (fs : List Frame) :
    transactAllBy core s (f :: fs) =
      ((transactAllBy core (transactBy core s f).1 fs).1,
        (transactBy core s f).2 :: (transactAllBy core (transactBy core s f).1 fs).2) := rfl

end Sys2Proof.Machine
end

