-- ==== Sys2Proof/Machine/Listing.lean ====
section
/-! DEFINITION. The written form of commands and responses (30_encoding.md R51). -/

namespace Sys2Proof.Machine

/-- The mnemonic of a command (R44, R51). -/
def mnemonic : Instr → List Char
  | .status => "STATUS".toList
  | .initE _ => "INIT.E".toList
  | .initD _ => "INIT.D".toList
  | .digest _ => "DIGEST".toList
  | .rekey _ => "REKEY".toList
  | .zeroize => "ZEROIZE".toList

/-- The payload of a command that takes one (R42, R51). -/
def writtenOperand : Instr → Option Block
  | .status => none
  | .initE key => some key
  | .initD key => some key
  | .digest block => some block
  | .rekey key => some key
  | .zeroize => none

/-- A command in written form: the mnemonic, then one space and the payload in hex where the command
takes a payload (R51). -/
def writtenCommand (i : Instr) : List Char :=
  mnemonic i ++ match writtenOperand i with
    | some b => ' ' :: hex b
    | none => []

/-- The name of a status code; the other 253 codes are never produced (R48). -/
def statusName (st : Byte) : Option (List Char) :=
  if st = okCode then some "OK".toList
  else if st = errCode .illegal then some "ERR_ILLEGAL".toList
  else if st = errCode .notLive then some "ERR_NOT_LIVE".toList
  else none

/-- Whether a command's response is written with its payload (R51). -/
def writesPayload : Instr → Bool
  | .status => true
  | .initE _ => false
  | .initD _ => false
  | .digest _ => true
  | .rekey _ => false
  | .zeroize => false

/-- A response in written form, without the arrow: the status name and, for a successful `DIGEST` or
`STATUS`, the payload in hex (R51). R51 shows only `OK` lines; that the zero payload of an error is not
written is the model's choice (log entry 20). -/
def writtenResponse (i : Instr) (f : Frame) : Option (List Char) :=
  (statusName (frameHead f)).map fun name =>
    if writesPayload i && frameHead f == okCode then name ++ ' ' :: hex (framePayload f) else name

end Sys2Proof.Machine
end

