-- ==== Sys2Proof/Tests/Slice0.lean ====
section
/-! SUPPORT. Tests. Expected values are the spec's: the examples marked (computed) of files 40 to 43 and the
vectors of 95_test_vectors.md sections 2 and 3; frames are written out from 30_encoding.md R41 to R46. The
last sections show, for each statement with hypotheses, a state and operands that meet them all. -/

namespace Sys2Proof.Tests

/- The kernel checks the tests one after the other: at the same time they take more threads than the
memory limit of a check has room for. -/
set_option Elab.async false

open Sys2Proof Sys2Proof.Machine

/-! ## Helpers -/

/-- `A`, with `A[i] = i + 1` (40_block_algebra.md, opening). -/
def blockA : Block := Vector.ofFn fun i => BitVec.ofNat 32 (i.val + 1)

/-- `B2`, with `B2[i] = 2^(2*i)` (40_block_algebra.md, opening). -/
def blockB2 : Block := Vector.ofFn fun i => BitVec.ofNat 32 (2 ^ (2 * i.val))

/-- `g`, with `g[i] = i + 1` (R82, R98). -/
def halfG : Halfblock := Vector.ofFn fun i => BitVec.ofNat 16 (i.val + 1)

/-- The Block of a 128-digit hexadecimal numeral (R28, R29). -/
def hexBlock (n : Nat) : Block := fromNum (BitVec.ofNat (16 * 32) n)

/-- The Halfblock of a 64-digit hexadecimal numeral (R30). -/
def hexHalf (n : Nat) : Halfblock := fromNum (BitVec.ofNat (16 * 16) n)

/-- The parameter record with the test table T0 (95_test_vectors.md section 1). -/
abbrev recT0 : Params := Config.decided fun x => 5#8 * x + 1#8

/-- A live session in a direction, with zero keys. -/
def liveState (dir : Direction) : State := { State.reset with live := true, dir := dir }

/-- The registers the host can reach, of a next state. -/
def registersOf (o : Host.Outcome State Fault Refusal) : Option (Direction × Bool × Option Frame) :=
  match o with
  | .next s => some (s.dir, s.live, s.rsp)
  | .fault _ => none
  | .refused _ => none

/-! ## The checks of WellFormed refuse an ill-formed term -/

theorem test_wf_reserved_operation : ({ op := 5, rsv := 0, d := 0 } : CtlFields).opOk = false := by
  decide
theorem test_wf_reserved_bits : ({ op := 1, rsv := 4, d := 0 } : CtlFields).rsvOk = false := by decide
theorem test_wf_stray_direction : ({ op := 2, rsv := 0, d := 1 } : CtlFields).dirOk = false := by decide
theorem test_wf_control_byte : (ctlFields 0x21#8).wf = false := by decide
theorem test_wf_init_decipher : (ctlFields 0x11#8).wf = true := by decide
theorem test_wf_short_frame : frameLengthOk (List.replicate 64 0x00#8) = false := by decide
theorem test_wf_long_frame : frameLengthOk (List.replicate 66 0x00#8) = false := by decide

/-! ## Decoding of written-out frames (R41, R44, R46) -/

theorem test_decode_status :
    (decodeBytes (0x00#8 :: List.replicate 64 0x5a#8)).toOption = some .status := by decide +kernel
theorem test_decode_initE :
    (decodeBytes (0x10#8 :: 0xde#8 :: 0xad#8 :: 0xbe#8 :: 0xef#8 :: List.replicate 60 0x00#8)).toOption
      = some (.initE ((blkZero 32).set 0 0xdeadbeef#32)) := by decide +kernel
theorem test_decode_initD :
    (decodeBytes (0x11#8 :: (List.replicate 60 0x00#8 ++ [0x11#8, 0x22#8, 0x33#8, 0x44#8]))).toOption
      = some (.initD ((blkZero 32).set 15 0x11223344#32)) := by decide +kernel
theorem test_decode_digest :
    (decodeBytes (0x20#8 :: (List.replicate 28 0x00#8
        ++ 0x80#8 :: 0x00#8 :: 0x00#8 :: 0x01#8 :: List.replicate 32 0x00#8))).toOption
      = some (.digest ((blkZero 32).set 7 0x80000001#32)) := by decide +kernel
theorem test_decode_rekey :
    (decodeBytes (0x30#8 :: (List.replicate 11 0x00#8 ++ 0xff#8 :: List.replicate 52 0x00#8))).toOption
      = some (.rekey ((blkZero 32).set 2 0x000000ff#32)) := by decide +kernel
theorem test_decode_zeroize :
    (decodeBytes (0x40#8 :: List.replicate 64 0x00#8)).toOption = some .zeroize := by decide +kernel

/-- The rejections by name, 95_test_vectors.md section 3: `D` with `DIGEST`, an `RSV` bit, `OP` 5 and
`OP` 15. -/
theorem test_decode_illegal :
    [0x21#8, 0x12#8, 0x50#8, 0xff#8, 0x01#8].map (fun c => (decode (frameOf c (blkZero 32))).isOk)
        = [false, false, false, false, false] ∧
      [0x21#8, 0x12#8, 0x50#8, 0xff#8, 0x01#8].map rejectOf
        = [.strayDirection, .reservedBits, .reservedOperation, .reservedOperation, .strayDirection] := by
  decide +kernel

/-- Opcode-table words of 8 bits stand for a zero payload. -/
theorem test_table_word_control_only :
    [0x00, 0x10, 0x11, 0x20, 0x30, 0x40].map (decodeTableWord 8) =
      [some .status, some (.initE (blkZero 32)), some (.initD (blkZero 32)),
        some (.digest (blkZero 32)), some (.rekey (blkZero 32)), some .zeroize] := by decide +kernel
theorem test_table_word_illegal : decodeTableWord 8 0x31 = none := by decide +kernel

/-- In a table word the byte after the control byte is the most significant byte of payload word 0. -/
theorem test_table_word_payload :
    decodeTableWord 520 0x0420 = some (.digest ((blkZero 32).set 0 0x04000000#32)) := by decide +kernel

/-- A step from the state that `withFetchWord` makes runs the command of the word. -/
theorem test_fetch_word_runs (s : State) :
    step (s.withFetchWord 8 0x11) = exec (.initD (blkZero 32)) (s.withFetchWord 8 0x11) := by
  have h : decode (tableFrame 8 0x11) = .ok (.initD (blkZero 32)) := by rfl
  simp only [step, stepBy, State.withFetchWord, h]

/-! ## Serialised forms (R26 to R31) -/

theorem test_bin_example :
    bin ((blkZero 32).set 0 0x80000001#32)
      = '1' :: (List.replicate 30 '0' ++ '1' :: List.replicate 480 '0') := by decide +kernel
theorem test_bytes_example :
    (bytes (((blkZero 32).set 0 0x01020304#32).set 1 0xA0B0C0D0#32)).take 8
      = [0x01#8, 0x02#8, 0x03#8, 0x04#8, 0xA0#8, 0xB0#8, 0xC0#8, 0xD0#8] := by decide +kernel
theorem test_hex_digits : (hex (blkZero 32 |>.set 0 0x0123cdef#32)).take 9 = "0123cdef0".toList := by
  decide +kernel

/-! ## The datapath (the examples of files 40 to 43) -/

theorem test_xor_example : (blkXor blockA blockB2).toList.take 4 = [0, 6, 0x13, 0x44] := by decide +kernel
theorem test_add_wraps :
    blkAdd (Vector.replicate 16 0xFFFFFFFF#32) (Vector.replicate 16 1#32) = blkZero 32 := by decide +kernel
theorem test_sub_wraps :
    blkSub (blkZero 32) (Vector.replicate 16 1#32) = Vector.replicate 16 0xFFFFFFFF#32 := by decide +kernel
theorem test_mmul_example :
    mmul blockA blockB2 = hexBlock
      0x000003e50000043a0000048f000004e40003e50000043a0000048f000004e40003e50000043a0000048f000004e40000e50000003a0000008f000000e4000000 := by
  decide +kernel
theorem test_mmul_other_order :
    mmul blockB2 blockA = hexBlock
      0x04030201100c08044030201000c0804008070605201c18148070605001c181400c0b0a09302c2824c0b0a09002c28240100f0e0d403c383400f0e0d003c38340 := by
  decide +kernel
theorem test_rotations :
    (rotRowsUp 1 blockA).toList.map BitVec.toNat = [2, 3, 4, 1, 6, 7, 8, 5, 10, 11, 12, 9, 14, 15, 16, 13] ∧
    (rotRowsDown 1 blockA).toList.map BitVec.toNat
      = [4, 1, 2, 3, 8, 5, 6, 7, 12, 9, 10, 11, 16, 13, 14, 15] ∧
    (rotColsLeft 1 blockA).toList.map BitVec.toNat
      = [5, 6, 7, 8, 9, 10, 11, 12, 13, 14, 15, 16, 1, 2, 3, 4] ∧
    (rotColsRight 1 blockA).toList.map BitVec.toNat
      = [13, 14, 15, 16, 1, 2, 3, 4, 5, 6, 7, 8, 9, 10, 11, 12] ∧
    (rotCellsLeft 1 blockA).toList.map BitVec.toNat
      = [2, 3, 4, 5, 6, 7, 8, 9, 10, 11, 12, 13, 14, 15, 16, 1] ∧
    (rotCellsRight 1 blockA).toList.map BitVec.toNat
      = [16, 1, 2, 3, 4, 5, 6, 7, 8, 9, 10, 11, 12, 13, 14, 15] := by decide +kernel
theorem test_rotBitsLeft :
    rotBitsLeft 1 (((blkZero 16).set 0 0x8001#16).set 15 0x0003#16)
      = ((blkZero 16).set 0 0x0002#16).set 15 0x0007#16 := by decide +kernel
theorem test_rotBitsRight :
    rotBitsRight 1 (((blkZero 32).set 0 0x80000001#32).set 15 0x00000003#32)
      = (((blkZero 32).set 0 0xC0000000#32).set 1 0x80000000#32).set 15 0x00000001#32 := by decide +kernel
theorem test_subBytes : subWord recT0 0x01234567#32 = 0x06B05A04#32 := by decide +kernel
theorem test_reduce :
    reduce recT0 (Vector.ofFn fun i =>
        [0x01234567#32, 0x89abcdef#32, 0xfedcba98#32, 0x76543210#32].getD (i.val % 4) 0)
      = hexHalf 0x4567cdefba9832104567cdefba9832104567cdefba9832104567cdefba983210 := by decide +kernel
theorem test_expand :
    expand recT0 halfG = hexBlock
      0x468730004faf510058d7720061ff9300b08bc000c7779300de636600f54f39001a9050003f3fd50063ef5a00889edf008494e000b7081700e97b4e001bee8500 := by
  decide +kernel
theorem test_split :
    (split blockA).1.toList.map BitVec.toNat = [0, 1, 0, 2, 0, 3, 0, 4, 0, 5, 0, 6, 0, 7, 0, 8] ∧
    (split blockA).2.toList.map BitVec.toNat
      = [0, 9, 0, 10, 0, 11, 0, 12, 0, 13, 0, 14, 0, 15, 0, 16] := by decide +kernel
theorem test_schedStep :
    schedStep recT0 blockA = hexBlock
      0x0000aed4000136c2000136c200017f680000ee0c00003f0200003f0200004dc80000304400009192000091920000b3a800006f9c0000e4220000e42200011998 := by
  decide +kernel
/-- The seed `e` with `e[0] = 1`: `ks[1]` and `ks[2]` as 95_test_vectors.md section 3.5 prints them, against
R92 (d); log entry 19. -/
theorem test_schedStep_unit_seed :
    schedStep recT0 ((blkZero 32).set 0 1#32) = ((blkZero 32).set 0 1#32).set 4 1#32 ∧
    schedStep recT0 (((blkZero 32).set 0 1#32).set 4 1#32)
      = ((blkZero 32).set 0 1#32).set 8 1#32 := by
  decide +kernel
theorem test_roundF :
    roundF recT0 halfG (Vector.ofFn fun i =>
        [0x01234567#32, 0x89abcdef#32, 0xfedcba98#32, 0x76543210#32].getD (i.val % 4) 0)
      = hexHalf 0x4a0a7a3caa3c2a3c5a1a0a9cba9c3a9c6a2a9afccafc4afc7a3a2b5cdb5c5b5c := by decide +kernel
theorem test_avalanche :
    avalanche recT0 (hexHalf 0x111122223333444455556666777788889999aaaabbbbccccddddeeeeffff1110)
        (Vector.ofFn fun i =>
          [0x01234567#32, 0x89abcdef#32, 0xfedcba98#32, 0x76543210#32].getD (i.val % 4) 0)
      = hexHalf 0x67899abba9874320f0122344320fcba9789aabccba9654310121123320feba98 := by decide +kernel

/-! ## One step of each command -/

/-- After `INIT.D`, `STATUS` reads word 0 as 3 (R120). -/
theorem test_status_live_decipher :
    registersOf (exec .status (liveState .decipher))
      = some (.decipher, true, some (frameOf 0x00#8 ((blkZero 32).set 0 3#32))) := by decide +kernel
theorem test_status_reset :
    registersOf (exec .status State.reset)
      = some (.encipher, false, some (frameOf 0x00#8 (blkZero 32))) := by decide +kernel
theorem test_digest_not_live :
    registersOf (exec (.digest blockA) State.reset)
      = some (.encipher, false, some (frameOf 0x02#8 (blkZero 32))) := by decide +kernel
theorem test_rekey_not_live :
    registersOf (exec (.rekey blockA) State.reset)
      = some (.encipher, false, some (frameOf 0x02#8 (blkZero 32))) := by decide +kernel
theorem test_rekey_keeps_last :
    registersOf (exec (.rekey blockA) { liveState .decipher with last := blockB2 })
      = some (.decipher, true, some (frameOf 0x00#8 (blkZero 32))) := by decide +kernel
theorem test_zeroize_clears_flags :
    registersOf (exec .zeroize { liveState .decipher with last := blockA })
      = some (.encipher, false, some (frameOf 0x00#8 (blkZero 32))) := by decide +kernel
theorem test_initE_sets_flags :
    registersOf (exec (.initE blockA) State.reset)
      = some (.encipher, true, some (frameOf 0x00#8 (blkZero 32))) := by decide +kernel
theorem test_initD_sets_flags :
    registersOf (exec (.initD blockA) State.reset)
      = some (.decipher, true, some (frameOf 0x00#8 (blkZero 32))) := by decide +kernel

/-- A frame with control byte 0x21 on a dead core is illegal, not "not live" (R157). -/
theorem test_illegal_comes_first :
    registersOf (step { State.reset with cmd := some (frameOf 0x21#8 blockA) })
      = some (.encipher, false, some (frameOf 0x01#8 (blkZero 32))) := by decide +kernel

/-- The written form of a command without operand, and of an error response (R51). -/
theorem test_written_forms :
    writtenCommand .zeroize = "ZEROIZE".toList ∧
      writtenResponse (.digest blockA) (frameOf 0x02#8 (blkZero 32)) = some "ERR_NOT_LIVE".toList := by
  decide +kernel

/-! ## Witnesses: a state and operands that meet a statement's hypotheses together

Named after the statement. -/

theorem witness_StepRunsTheDecodedCommand :
    ∃ (s : State) (f : Frame) (i : Instr),
      s.cmd = some f ∧ s.rsp = none ∧ decode f = .ok i ∧ i.wf = true :=
  ⟨{ State.reset with cmd := some (frameOf 0x20#8 blockA) }, _, .digest blockA, rfl, rfl,
    by simp [decode], rfl⟩

theorem witness_StepAnswersIllegalFrames :
    ∃ (s : State) (f : Frame) (e : Reject), s.cmd = some f ∧ s.rsp = none ∧ decode f = .error e :=
  ⟨{ liveState .encipher with cmd := some (frameOf 0x31#8 blockA) }, _, rejectOf 0x31#8, rfl, rfl,
    by simp [decode]⟩

theorem witness_StepHoldsWhenIdleOrWaiting :
    State.reset.cmd = none ∧
      ({ State.reset with rsp := some (frameOf 0x00#8 blockA) } : State).rsp ≠ none := by
  simp

theorem witness_StepIsTotalAndAnswers :
    (∃ P, stepWith recT0 = stepWith P) ∧ ∃ (s : State) (f : Frame), s.cmd = some f ∧ s.rsp = none :=
  ⟨⟨recT0, rfl⟩, { State.reset with cmd := some (frameOf 0xff#8 blockA) }, _, rfl, rfl⟩

theorem witness_DigestEnciphers :
    (liveState .encipher).live = true ∧ (liveState .encipher).dir = .encipher := ⟨rfl, rfl⟩

theorem witness_DigestDeciphers :
    (liveState .decipher).live = true ∧ (liveState .decipher).dir = .decipher := ⟨rfl, rfl⟩

theorem witness_RekeyCompletes : (liveState .decipher).live = true := rfl

theorem witness_NotLiveIsAnswered : State.reset.live = false := rfl

theorem witness_TransientsEndZero_zero :
    ∃ s', exec .zeroize (liveState .encipher) = .next s' ∧
      ¬ (Instr.zeroize = .status ∨ respondsOk s'.rsp = false) :=
  ⟨_, rfl, by simp [respondsOk]⟩

theorem witness_TransientsEndZero_kept :
    ∃ s', exec (.digest blockA) State.reset = .next s' ∧ respondsOk s'.rsp = false :=
  ⟨_, rfl, by decide +kernel⟩

theorem witness_CommandsTouchOnlyTheirRegisters :
    ∃ s' r, exec (.rekey blockA) State.reset = .next s' ∧ s'.rsp = some r ∧ frameHead r ≠ 0x00#8 :=
  ⟨_, frameOf 0x02#8 (blkZero 32), rfl, rfl, by simp⟩

theorem witness_CommandsTouchOnlyTheirRegisters_digest :
    ∃ s', exec (.digest blockA) (liveState .decipher) = .next s' := ⟨_, rfl⟩

theorem witness_CommandsTouchOnlyTheirRegisters_status :
    ∃ s', exec .status (liveState .decipher) = .next s' := ⟨_, rfl⟩

theorem witness_LegalCommandsAnswerOk :
    ((liveState .encipher).live = true ∨ ∀ b, Instr.digest blockA ≠ .digest b ∧
        Instr.digest blockA ≠ .rekey b) ∧
      (State.reset.live = true ∨ ∀ b, Instr.status ≠ .digest b ∧ Instr.status ≠ .rekey b) :=
  ⟨.inl rfl, .inr fun _ => ⟨by simp, by simp⟩⟩

/-- A state of the invariant in which a step does something: `INIT.E` is in progress. -/
def initInProgress : State := { State.reset with cmd := some (encode (.initE blockA)) }

theorem witness_StepKeepsInv :
    initInProgress.Inv ∧ ∃ s', step initInProgress = .next s' ∧ s'.live = true := by
  refine ⟨⟨fun _ => ⟨rfl, rfl, rfl⟩, ⟨rfl, rfl, rfl⟩, .inr rfl, ?_, ?_⟩, ?_⟩
  · intro h; cases h
  · intro r h; cases h
  · have h : decode (encode (.initE blockA)) = .ok (.initE blockA) := by
      simp [decode, encode, ctlOf, payloadOf]
    exact ⟨initSession Config.device .encipher blockA initInProgress,
      by simp only [step, stepBy, initInProgress, reset_rsp, h]; rfl, rfl⟩

theorem witness_PortEventsKeepInv :
    initInProgress.Inv ∧ portEvent .reset initInProgress = .next State.reset :=
  ⟨witness_StepKeepsInv.1, rfl⟩

theorem witness_OnlyInitAndZeroizeSetTheFlags :
    ∃ s s', step s = .next s' ∧ s'.dir ≠ s.dir ∧ s.live = false ∧ s'.live = true := by
  have h : decode (encode (.initD blockA)) = .ok (.initD blockA) := by
    simp [decode, encode, ctlOf, payloadOf]
  refine ⟨{ State.reset with cmd := some (encode (.initD blockA)) }, initSession Config.device .decipher
    blockA { State.reset with cmd := some (encode (.initD blockA)) }, ?_, ?_, rfl, rfl⟩
  · simp only [step, stepBy, reset_rsp, h]; rfl
  · change Direction.decipher ≠ Direction.encipher; decide

theorem witness_OnlyInitAndZeroizeSetTheFlags_zeroize :
    ∃ s s', step s = .next s' ∧ s'.dir ≠ s.dir ∧ s.live = true ∧ s'.live = false := by
  have h : decode (encode .zeroize) = .ok .zeroize := by
    simp [decode, encode, ctlOf]
  refine ⟨{ liveState .decipher with cmd := some (encode .zeroize) }, State.respond okCode (blkZero 32)
    (State.destroySession { liveState .decipher with cmd := some (encode .zeroize) }), ?_, ?_, rfl, rfl⟩
  · simp only [step, stepBy, liveState, reset_rsp, h]; rfl
  · change Direction.encipher ≠ Direction.decipher; decide

theorem witness_KeyMaterialIsNotReturned :
    ∃ s' t', ctlOf (.rekey blockA) = ctlOf (.rekey blockB2) ∧ ctlOf (.rekey blockA) ≠ 0x20#8 ∧
      (liveState .encipher).live = ({ liveState .encipher with last := blockA } : State).live ∧
      (liveState .encipher).dir = ({ liveState .encipher with last := blockA } : State).dir ∧
      exec (.rekey blockA) (liveState .encipher) = .next s' ∧
      exec (.rekey blockB2) { liveState .encipher with last := blockA } = .next t' :=
  ⟨rekeySession Config.device blockA (liveState .encipher),
    rekeySession Config.device blockB2 { liveState .encipher with last := blockA },
    by simp only [ctlOf], by simp only [ctlOf]; decide, rfl, rfl, rfl, rfl⟩

/-- Also a witness for `IgnoredPayloadsChangeNothing`, `ErrorsLeaveNoTrace` and the sessions. -/
theorem witness_TransactionAnswersAndEndsIdle : State.reset.idle ∧ (liveState .decipher).idle :=
  ⟨⟨rfl, rfl⟩, ⟨rfl, rfl⟩⟩

theorem witness_ErrorsLeaveNoTrace :
    State.reset.idle ∧
      ((transactAll State.reset [frameOf 0x21#8 blockA, encode .status]).2.map respondsOk) = [false, true] :=
  ⟨⟨rfl, rfl⟩, by decide +kernel⟩

theorem witness_PortHandshake :
    State.reset.idle ∧ ¬ initInProgress.idle ∧
      ¬ ({ State.reset with rsp := some (frameOf 0x00#8 blockA) } : State).idle := by
  refine ⟨⟨rfl, rfl⟩, ?_, ?_⟩ <;> simp [State.idle, initInProgress]

theorem witness_DecodeUndoesEncode : (Instr.digest blockA).wf = true := rfl

theorem witness_EncodeUndoesDecode :
    decode (frameOf 0x40#8 blockA) = .ok .zeroize ∧
      decode (frameOf 0x30#8 blockA) = .ok (.rekey blockA) := by
  constructor <;> simp [decode]

theorem witness_OnlyWholeFramesDecode :
    (List.replicate 64 0x00#8).length ≠ 65 ∧ (List.replicate 66 0x00#8).length ≠ 65 := by simp

theorem witness_IgnoredPayloadsChangeNothing : (liveState .encipher).idle := ⟨rfl, rfl⟩

theorem witness_ByteFormIsABijection : (List.replicate 64 0x5a#8).length = 64 := by simp

theorem witness_ConstructionFromAString :
    (List.replicate 511 '0').length ≠ 512 ∧ (List.replicate 513 '0').length ≠ 512 ∧
      (List.replicate 255 '0').length ≠ 256 ∧ (List.replicate 257 '0').length ≠ 256 ∧
      ('2' :: List.replicate 511 '0').length = 512 ∧ '2' ∈ '2' :: List.replicate 511 '0' ∧
      '2' ≠ '0' ∧ '2' ≠ '1' := by
  simp only [List.length_cons, List.length_replicate, List.mem_cons, true_or]; decide

theorem witness_SubBytesActsOnTheByteString : recT0.sboxGran = .byte := rfl

theorem witness_BitRotationsMoveOneBit : 0 < 1 ∧ 0 < 16 ∧ 0 < 32 := by decide

theorem witness_ScheduleStepsFromTheSeed : (1 < 64 ∧ 1 ≤ 1) ∧ (63 < 64 ∧ 1 ≤ 63) := by decide

/-- A layout of the halves other than the decided one: low and high parts of each word. -/
def layoutByParts : SplitLayout 16 where
  split b := (b.map fun x => x.extractLsb' 0 16, b.map fun x => x.extractLsb' 16 16)
  combine l r := Vector.zipWith (fun x y => (y ++ x : BitVec 32)) l r

theorem append_parts (x : BitVec 32) : x.extractLsb' 16 16 ++ x.extractLsb' 0 16 = x := by
  apply BitVec.eq_of_getLsbD_eq
  intro j hj
  rw [BitVec.getLsbD_append, BitVec.getLsbD_extractLsb', BitVec.getLsbD_extractLsb']
  rcases Nat.lt_or_ge j 16 with h | h
  · have e : 0 + j = j := by omega
    rw [if_pos h, e, decide_eq_true h, Bool.true_and]
  · have e : 16 + (j - 16) = j := by omega
    have h2 : j - 16 < 16 := by omega
    rw [if_neg (by omega), e, decide_eq_true h2, Bool.true_and]
theorem layoutByParts_lawful : layoutByParts.lawful := by
  constructor
  · intro b
    apply Vector.ext
    intro i hi
    simp only [layoutByParts, Vector.getElem_zipWith, Vector.getElem_map]
    exact append_parts b[i]
  · intro l r
    refine Prod.ext ?_ ?_ <;> apply Vector.ext <;> intro i hi <;>
      simp only [layoutByParts, Vector.getElem_zipWith, Vector.getElem_map] <;>
      apply BitVec.eq_of_getLsbD_eq <;> intro j hj <;>
      rw [BitVec.getLsbD_extractLsb', BitVec.getLsbD_append] <;> simp [hj]

theorem witness_RunRoundTrip :
    ({ recT0 with splitLayout := layoutByParts } : Params).finalSwap = true ∧
      ({ recT0 with splitLayout := layoutByParts } : Params).splitLayout.lawful :=
  ⟨rfl, layoutByParts_lawful⟩

theorem witness_RatchetReseedsFromTheLastKey :
    State.reset.ks[63] = blkZero 32 ∧ State.reset.idle ∧ (liveState .decipher).idle ∧
      [blockA, blockB2].length = [blockB2, blockA].length :=
  ⟨by simp, ⟨rfl, rfl⟩, ⟨rfl, rfl⟩, by simp only [List.length_cons]⟩

theorem witness_KeysetIgnoresTheData : (liveState .decipher).idle ∧ (liveState .decipher).live = true :=
  ⟨⟨rfl, rfl⟩, rfl⟩

theorem witness_MessageRoundTrip : State.reset.idle ∧ (liveState .encipher).idle :=
  ⟨⟨rfl, rfl⟩, ⟨rfl, rfl⟩⟩

theorem witness_CiphertextChains : State.reset.idle ∧ blockA ≠ blockB2 :=
  ⟨⟨rfl, rfl⟩, by decide +kernel⟩

theorem witness_AlteredCiphertextIsConfined :
    State.reset.idle ∧ 0 ≠ [blockA].length ∧ 0 ≠ [blockA].length + 1 ∧ 3 ≠ [blockA].length ∧
      3 ≠ [blockA].length + 1 :=
  ⟨⟨rfl, rfl⟩, by decide, by decide, by decide, by decide⟩

theorem witness_HashBlockUsesTheDataAsKey :
    let k : KeyedHash := { core := liveState .encipher, hashsum := blockA }
    k.core.idle ∧ k.core.live = true ∧ k.core.dir = .encipher :=
  ⟨⟨rfl, rfl⟩, rfl, rfl⟩

theorem witness_BitCursorStaysInRange :
    ∃ g g' : Prng, g.nextBit ≤ 512 ∧ g.nextBit = 512 ∧ g'.nextBit ≤ 512 ∧ g'.nextBit < 512 :=
  ⟨{ seed := blockA, hasher := { core := liveState .encipher, hashsum := blockA }, nextBit := 512 },
    { seed := blockA, hasher := { core := liveState .encipher, hashsum := blockA }, nextBit := 511 },
    by decide, rfl, by decide, by decide⟩

theorem witness_CiphertextStreamsAreWholeBlocks :
    (List.replicate 63 0x00#8).length % 64 ≠ 0 ∧ (List.replicate 64 0x00#8).length % 64 = 0 := by
  simp

theorem witness_MessageRoundTripForEveryRecord :
    ∃ P : Params, P.finalSwap = true ∧ P.splitLayout.lawful ∧ State.reset.idle ∧
      (liveState .decipher).idle :=
  ⟨{ recT0 with splitLayout := layoutByParts, ivTempNetwork := false }, rfl, layoutByParts_lawful,
    ⟨rfl, rfl⟩, ⟨rfl, rfl⟩⟩

end Sys2Proof.Tests
end

