-- ==== Sys2Proof/Proofs/BlockAlgebra.lean ====
section
/-! PROOFS. The block algebra of 40_block_algebra.md: XOR, Add and Sub as laws of whole values, and the
four rotation pairs as inverses of each other. Every value is compared word by word (`Vector.ext`), cell
by cell (`blk_ext_cell`) or, for the bit rotations, as its numeral (`fromNum_num`). -/

namespace Sys2Proof.Machine

section WordwiseLaws

variable {w : Nat}

@[simp] theorem blkReset_eq_zero (a : Blk w) : blkReset a = blkZero w := rfl

theorem blkXor_self (a : Blk w) : blkXor a a = blkZero w :=
  Vector.ext fun i hi => by
    rw [getElem_blkXor, getElem_blkZero]
    exact BitVec.xor_self

theorem blkXor_zero (a : Blk w) : blkXor a (blkZero w) = a :=
  Vector.ext fun i hi => by
    rw [getElem_blkXor, getElem_blkZero]
    exact BitVec.xor_zero

theorem blkXor_blkXor_cancel (a b : Blk w) : blkXor (blkXor a b) b = a :=
  Vector.ext fun i hi => by
    rw [getElem_blkXor, getElem_blkXor, BitVec.xor_assoc, BitVec.xor_self, BitVec.xor_zero]

theorem blkAdd_zero (a : Blk w) : blkAdd a (blkZero w) = a :=
  Vector.ext fun i hi => by
    rw [getElem_blkAdd, getElem_blkZero]
    exact BitVec.add_zero _

theorem blkAdd_comm (a b : Blk w) : blkAdd a b = blkAdd b a :=
  Vector.ext fun i hi => by
    rw [getElem_blkAdd, getElem_blkAdd, BitVec.add_comm]

theorem blkAdd_assoc (a b c : Blk w) : blkAdd (blkAdd a b) c = blkAdd a (blkAdd b c) :=
  Vector.ext fun i hi => by
    simp only [getElem_blkAdd, BitVec.add_assoc]

theorem blkSub_self (a : Blk w) : blkSub a a = blkZero w :=
  Vector.ext fun i hi => by
    rw [getElem_blkSub, getElem_blkZero]
    exact BitVec.sub_self _

theorem blkAdd_blkSub_cancel (a b : Blk w) : blkSub (blkAdd a b) b = a :=
  Vector.ext fun i hi => by
    rw [getElem_blkSub, getElem_blkAdd, BitVec.add_sub_cancel]

theorem blkSub_blkAdd_cancel (a b : Blk w) : blkAdd (blkSub a b) b = a :=
  Vector.ext fun i hi => by
    rw [getElem_blkAdd, getElem_blkSub, BitVec.sub_add_cancel]

/-- The difference of two lanes as R59 writes it: `2^w` is added before the subtraction, which is then
exact on natural numbers. -/
theorem toNat_getElem_blkSub (a b : Blk w) (i : Nat) (hi : i < 16) :
    (blkSub a b)[i].toNat = (a[i].toNat + 2 ^ w - b[i].toNat) % 2 ^ w := by
  have exact_sub : b[i].toNat ≤ 2 ^ w := b[i].isLt.le
  rw [getElem_blkSub, BitVec.toNat_sub', Nat.add_sub_assoc exact_sub]

theorem mmul_zero (a : Blk w) : mmul a (blkZero w) = blkZero w :=
  blk_ext_cell fun r _ c _ => by simp [cell_mmul]

theorem zero_mmul (a : Blk w) : mmul (blkZero w) a = blkZero w :=
  blk_ext_cell fun r _ c _ => by simp [cell_mmul]

/-- Word `i` of a value is the `w` bits of `Num` that `FromNum_w` reads for it (R7). -/
theorem extractLsb'_num (a : Blk w) (i : Nat) (hi : i < 16) :
    (num a).extractLsb' (w * (15 - i)) w = a[i] := by
  rw [← getElem_fromNum _ i hi, fromNum_num]

/-- XOR has no carry, so the lanes' exclusive or is that of the whole values (R57). -/
theorem num_blkXor (a b : Blk w) : num (blkXor a b) = num a ^^^ num b := by
  have words : blkXor a b = fromNum (num a ^^^ num b) :=
    Vector.ext fun i hi => by
      rw [getElem_fromNum, BitVec.extractLsb'_xor, extractLsb'_num, extractLsb'_num, getElem_blkXor]
  rw [words, num_fromNum]

end WordwiseLaws

/-- Settles O35: the words by the `getElem` lemmas of Laws/Algebra, the laws word by word. -/
theorem wordwiseOperations : Obligations.WordwiseOperations := by
  intro w a b c
  have words : ∀ (i : Nat) (hi : i < 16),
      (blkXor a b)[i] = a[i] ^^^ b[i] ∧
      (blkAdd a b)[i].toNat = (a[i].toNat + b[i].toNat) % 2 ^ w ∧
      (blkSub a b)[i].toNat = (a[i].toNat + 2 ^ w - b[i].toNat) % 2 ^ w ∧
      (blkReset a)[i].toNat = 0 ∧ (blkZero w)[i].toNat = 0 := fun i hi =>
    ⟨getElem_blkXor a b i hi, by rw [getElem_blkAdd, BitVec.toNat_add],
      toNat_getElem_blkSub a b i hi, by simp, by simp⟩
  exact ⟨words, num_blkXor a b, blkXor_self a, blkXor_zero a, blkXor_blkXor_cancel a b, blkAdd_zero a,
    blkAdd_comm a b, blkAdd_assoc a b c, blkSub_self a, blkAdd_blkSub_cancel a b, blkSub_blkAdd_cancel a b,
    mmul_zero a, zero_mmul a⟩

section RotationPairs

variable {w : Nat}

/-- A cell depends on its coordinates modulo 4 only (R55). -/
theorem cell_congr (a : Blk w) {r r' c c' : Nat} (hr : r % 4 = r' % 4) (hc : c % 4 = c' % 4) :
    cell a r c = cell a r' c' := by
  rw [← cell_mod_row, ← cell_mod_col, hr, hc, cell_mod_row, cell_mod_col]

theorem rotRowsDown_rotRowsUp (n : Nat) (a : Blk w) : rotRowsDown n (rotRowsUp n a) = a :=
  blk_ext_cell fun r _ c _ => by
    rw [cell_rotRowsDown, cell_rotRowsUp]
    exact cell_congr a (by omega) rfl

theorem rotRowsUp_rotRowsDown (n : Nat) (a : Blk w) : rotRowsUp n (rotRowsDown n a) = a :=
  blk_ext_cell fun r _ c _ => by
    rw [cell_rotRowsUp, cell_rotRowsDown]
    exact cell_congr a (by omega) rfl

theorem rotColsRight_rotColsLeft (n : Nat) (a : Blk w) : rotColsRight n (rotColsLeft n a) = a :=
  blk_ext_cell fun r _ c _ => by
    rw [cell_rotColsRight, cell_rotColsLeft]
    exact cell_congr a rfl (by omega)

theorem rotColsLeft_rotColsRight (n : Nat) (a : Blk w) : rotColsLeft n (rotColsRight n a) = a :=
  blk_ext_cell fun r _ c _ => by
    rw [cell_rotColsLeft, cell_rotColsRight]
    exact cell_congr a rfl (by omega)

theorem rotCellsRight_rotCellsLeft (n : Nat) (a : Blk w) : rotCellsRight n (rotCellsLeft n a) = a :=
  Vector.ext fun i hi => by
    have back : ((i + 15 * n) % 16 + n) % 16 = i := by omega
    simp only [getElem_rotCellsRight, getElem_rotCellsLeft, back]

theorem rotCellsLeft_rotCellsRight (n : Nat) (a : Blk w) : rotCellsLeft n (rotCellsRight n a) = a :=
  Vector.ext fun i hi => by
    have back : ((i + n) % 16 + 15 * n) % 16 = i := by omega
    simp only [getElem_rotCellsLeft, getElem_rotCellsRight, back]

/-- Bit `i` goes up by `n % m`, round the end or not, and comes back. -/
theorem bitVec_rotateRight_rotateLeft {m : Nat} (x : BitVec m) (n : Nat) :
    (x.rotateLeft n).rotateRight n = x := by
  ext i hi
  have hn : n % m < m := Nat.mod_lt _ (by omega)
  rw [BitVec.getElem_rotateRight]
  split
  case isTrue h =>
    have stays : ¬ n % m + i < n % m := by omega
    simp [BitVec.getElem_rotateLeft, stays]
  case isFalse h =>
    have wraps : i - (m - n % m) < n % m := by omega
    have back : m - n % m + (i - (m - n % m)) = i := by omega
    simp [BitVec.getElem_rotateLeft, wraps, back]

/-- Bit `i` goes down by `n % m`, round the end or not, and comes back. -/
theorem bitVec_rotateLeft_rotateRight {m : Nat} (x : BitVec m) (n : Nat) :
    (x.rotateRight n).rotateLeft n = x := by
  ext i hi
  have hn : n % m < m := Nat.mod_lt _ (by omega)
  rw [BitVec.getElem_rotateLeft]
  split
  case isTrue h =>
    have wraps : ¬ m - n % m + i < m - n % m := by omega
    simp [BitVec.getElem_rotateRight, wraps]
  case isFalse h =>
    have stays : i - n % m < m - n % m := by omega
    have back : n % m + (i - n % m) = i := by omega
    simp [BitVec.getElem_rotateRight, stays, back]

theorem rotBitsRight_rotBitsLeft (n : Nat) (a : Blk w) : rotBitsRight n (rotBitsLeft n a) = a := by
  rw [rotBitsRight, rotBitsLeft, num_fromNum, bitVec_rotateRight_rotateLeft, fromNum_num]

theorem rotBitsLeft_rotBitsRight (n : Nat) (a : Blk w) : rotBitsLeft n (rotBitsRight n a) = a := by
  rw [rotBitsLeft, rotBitsRight, num_fromNum, bitVec_rotateLeft_rotateRight, fromNum_num]

end RotationPairs

/-- Settles O36, from the laws of XOR, Add and Sub and the four rotation pairs above. -/
theorem algebraInverseLaws : Obligations.AlgebraInverseLaws := fun _ n a b =>
  ⟨blkXor_blkXor_cancel a b, blkXor_zero a, blkAdd_blkSub_cancel a b, blkSub_blkAdd_cancel a b,
    rotRowsDown_rotRowsUp n a, rotRowsUp_rotRowsDown n a,
    rotColsRight_rotColsLeft n a, rotColsLeft_rotColsRight n a,
    rotCellsRight_rotCellsLeft n a, rotCellsLeft_rotCellsRight n a,
    rotBitsRight_rotBitsLeft n a, rotBitsLeft_rotBitsRight n a⟩

end Sys2Proof.Machine
end

section
/-! PROOFS. The key schedule of 42_key_schedule.md: the zero key is a fixed point of the schedule (R91), and
the ratchet reseeds from the last key (R93). -/

namespace Sys2Proof.Machine

section ZeroKey

variable {w : Nat}

theorem rotCellsRight_zero (n : Nat) : rotCellsRight n (blkZero w) = blkZero w :=
  Vector.ext fun i hi => by rw [getElem_rotCellsRight, getElem_blkZero, getElem_blkZero]

theorem rotColsRight_zero (n : Nat) : rotColsRight n (blkZero w) = blkZero w :=
  blk_ext_cell fun r _ c _ => by rw [cell_rotColsRight, cell_blkZero, cell_blkZero]

/-- Whatever the bits rotated into it, a turn of the mixing loop ends in a product by the previous key. -/
theorem schedMixStep_zero (P : Params) (x : Block) : schedMixStep P (blkZero 32) x = blkZero 32 :=
  mmul_zero _

theorem schedStep_zero (P : Params) : schedStep P (blkZero 32) = blkZero 32 := by
  have mixed (x : Block) : (schedMixStep P (blkZero 32))^[Config.schedMix] x = blkZero 32 := by
    rw [Config.schedMix, Function.iterate_succ_apply', schedMixStep_zero]
  rw [schedStep, mixed, rotCellsRight_zero, blkAdd_zero, rotColsRight_zero, blkXor_self]

theorem keySchedule_zero (P : Params) : keySchedule P (blkZero 32) = zeroKeyset :=
  Vector.ext fun i hi => by
    rw [getElem_keySchedule, Function.iterate_fixed (schedStep_zero P), getElem_zeroKeyset]

end ZeroKey

theorem keySchedule_first (P : Params) (seed : Key) : (keySchedule P seed)[0] = seed :=
  getElem_keySchedule P seed 0 (by decide)

theorem ratchet_first (P : Params) (s : State) : (s.ratchet P).ks[0] = s.ks[63] :=
  keySchedule_first P s.ks[63]

theorem ratchet_ks_zero (P : Params) (s : State) (last_zero : s.ks[63] = blkZero 32) :
    (s.ratchet P).ks = zeroKeyset := by
  rw [ratchet_ks, last_zero, keySchedule_zero]

theorem run_keyset (P : Params) (ks : Keyset) (b : Block) (dir : Direction) :
    (run P ks b dir).2 = keySchedule P ks[63] := rfl

end Sys2Proof.Machine
end

section
/-! PROOFS. The keyset of a session: an encoded command is one transaction of an idle core, `INIT` loads the
schedule of its key, and every `DIGEST` ratchets it, in both directions (R93, R111, R113). -/

namespace Sys2Proof.Machine

/-- The decoder reads an encoded command back (R41, R44, R50). -/
theorem decode_encode (i : Instr) : decode (encode i) = .ok i := by
  cases i <;> simp [decode, encode, ctlOf, payloadOf]

/-- An idle core executes the command it is sent and hands over the response (R34, R36). -/
theorem transact_encode {s s' : State} {i : Instr} (idle : s.idle)
    (runs : exec i { s with cmd := some (encode i) } = .next s') :
    transact s (encode i) = s'.take := by
  obtain ⟨no_cmd, no_rsp⟩ := idle
  have stepped : step (s.offer (encode i)) = .next s' := by
    rw [offer_idle _ _ no_cmd no_rsp, ← runs]
    exact stepBy_command exec _ _ i rfl no_rsp (decode_encode i)
  rw [transact, transactBy, stepped]

/-- The host's taking of the response is all an answered core waits for (R34). -/
theorem take_idle {s : State} (answered : s.cmd = none) : s.take.1.idle :=
  ⟨answered, rfl⟩

/-- `INIT` leaves nothing of the earlier state (R111, R112; on a temporary network, R6). -/
theorem initSession_eq (P : Params) (temp : P.ivTempNetwork = true) (dir : Direction) (key : Key)
    (s : State) :
    initSession P dir key s =
      { ks := keySchedule P key, last := ivOf P key, dir := dir, live := true,
        halves := Halves.zero, seed := blkZero 32, tks := zeroKeyset,
        cmd := none, rsp := some (frameOf okCode (blkZero 32)) } := by
  simp only [initSession, zeroKeys_eq, deriveIv_temp P temp, clearTransients_eq, respond_eq]

theorem exec_initOf (dir : Direction) (key : Key) (s : State) :
    exec (initOf dir key) s = .next (initSession Config.device dir key s) := by
  cases dir <;> rfl

theorem sessionStart_eq (dir : Direction) (key : Key) {s : State} (idle : s.idle) :
    sessionStart dir key s =
      { ks := keySchedule Config.device key, last := ivOf Config.device key, dir := dir, live := true,
        halves := Halves.zero, seed := blkZero 32, tks := zeroKeyset, cmd := none, rsp := none } := by
  rw [sessionStart, transact_encode idle (exec_initOf dir key _), initSession_eq _ rfl]
  rfl

theorem sessionStart_ks (dir : Direction) (key : Key) {s : State} (idle : s.idle) :
    (sessionStart dir key s).ks = keySchedule Config.device key := by
  rw [sessionStart_eq dir key idle]

theorem sessionStart_live (dir : Direction) (key : Key) {s : State} (idle : s.idle) :
    (sessionStart dir key s).live = true := by
  rw [sessionStart_eq dir key idle]

theorem sessionStart_idle (dir : Direction) (key : Key) {s : State} (idle : s.idle) :
    (sessionStart dir key s).idle := by
  rw [sessionStart_eq dir key idle]
  exact ⟨rfl, rfl⟩

theorem digestByDir_ks (P : Params) (b : Block) (s : State) :
    (digestByDir P b s).1.ks = keySchedule P s.ks[63] := by
  rw [digestByDir]
  cases s.dir <;> rfl

theorem digestByDir_live (P : Params) (b : Block) (s : State) :
    (digestByDir P b s).1.live = s.live := by
  rw [digestByDir]
  cases s.dir <;> rfl

theorem exec_digest_of_live (b : Block) (s : State) (live : s.live = true) :
    exec (.digest b) s = .next
      ((digestByDir Config.device b s).1.clearTransients.respond okCode
        (digestByDir Config.device b s).2) :=
  congrArg Host.Outcome.next (whenLive_live _ s live)

/-- One `DIGEST` frame on an idle core with a session: the keyset is ratcheted, whichever the direction and
the block, and the core is ready for the next frame (R93, R113). -/
theorem transact_digest (b : Block) {s : State} (idle : s.idle) (live : s.live = true) :
    (transact s (encode (.digest b))).1.ks = keySchedule Config.device s.ks[63] ∧
    (transact s (encode (.digest b))).1.live = true ∧
    (transact s (encode (.digest b))).1.idle := by
  rw [transact_encode idle (exec_digest_of_live b _ live)]
  refine ⟨?ks, ?live, take_idle rfl⟩
  case ks => rw [take_ks, respond_ks, clearTransients_ks, digestByDir_ks]
  case live => rw [take_live, respond_live, clearTransients_live, digestByDir_live, live]

/-- The keyset after a sequence of `DIGEST` frames counts them and reads nothing else (R24, R93). -/
theorem transactAll_digestFrames_ks (blocks : List Block) {s : State} (idle : s.idle)
    (live : s.live = true) :
    (transactAll s (digestFrames blocks)).1.ks
      = (fun ks : Keyset => keySchedule Config.device ks[63])^[blocks.length] s.ks := by
  induction blocks generalizing s with
  | nil => rfl
  | cons b blocks ih =>
    obtain ⟨ratcheted, live', idle'⟩ := transact_digest b idle live
    rw [List.length_cons, Function.iterate_succ_apply, ← ratcheted]
    exact ih idle' live'

/-- Both directions start from the schedule of the key and ratchet once for each block (R93). -/
theorem session_ks (dir : Direction) (key : Key) (blocks : List Block) {s : State} (idle : s.idle) :
    (transactAll (sessionStart dir key s) (digestFrames blocks)).1.ks
      = (fun ks : Keyset => keySchedule Config.device ks[63])^[blocks.length]
          (keySchedule Config.device key) := by
  rw [transactAll_digestFrames_ks blocks (sessionStart_idle dir key idle)
    (sessionStart_live dir key idle), sessionStart_ks dir key idle]

/-- Settles O46: the ratchet by its laws and the zero key's schedule, the sessions by `session_ks`. -/
theorem ratchetReseedsFromTheLastKey : Obligations.RatchetReseedsFromTheLastKey := by
  refine ⟨fun P s => ⟨ratchet_eq P s, ratchet_first P s, ratchet_ks_zero P s⟩, run_keyset, ?sessions⟩
  case sessions =>
    intro key s t x y s_idle t_idle same_length
    rw [session_ks .encipher key x s_idle, session_ks .decipher key y t_idle, same_length]

end Sys2Proof.Machine
end

section
/-! PROOFS. The network of 43_feistel_network.md: the order of a `Run`'s round keys (R100), the avalanche
transform and its inverse (R104, R105), and the two rounds (R101, R102). Of `F` the inverse laws use only
that it is a function (R99). -/

namespace Sys2Proof.Machine

section RoundKeys

/-- A fold over a list is a fold over its positions, whatever the default read outside it. -/
theorem foldl_eq_foldl_range_getD {α β : Type} (f : β → α → β) (d : α) (l : List α) (b : β) :
    l.foldl f b = (List.range l.length).foldl (fun b i => f b (l.getD i d)) b := by
  induction l generalizing b with
  | nil => rfl
  | cons x l ih =>
    rw [List.foldl_cons, ih, List.length_cons, List.range_succ_eq_map, List.foldl_cons, List.foldl_map]
    rfl

/-- Key `i` of the reversed list is key `63 - i` of the keyset (R100). -/
theorem getD_roundKeys_decipher (ks : Keyset) (d : Key) (i : Nat) (hi : i < 64) :
    (roundKeys ks .decipher).getD i d = ks.toList.getD (63 - i) d := by
  have in_range : i < ks.toList.length := by rwa [Vector.length_toList]
  rw [roundKeys, List.getD_reverse i in_range, Vector.length_toList]

/-- `Run` has 64 rounds, one at each position of the list of round keys (R100). -/
theorem rounds_eq_foldl_range {w : Nat} (P : Params) (ks : Keyset) (dir : Direction) (h : Halves w) :
    rounds P ks dir h = (List.range 64).foldl
      (fun h i => halfRound P dir h ((roundKeys ks dir).getD i (blkZero 32))) h := by
  rw [rounds, foldl_eq_foldl_range_getD _ (blkZero 32), length_roundKeys]

end RoundKeys

/-- Settles O48: the encipher list is the keyset itself, the decipher list its reverse. -/
theorem roundKeyOrder : Obligations.RoundKeyOrder := by
  intro P w ks h
  refine ⟨rounds_eq_foldl_range P ks .encipher h, ?decipher⟩
  case decipher =>
    rw [rounds_eq_foldl_range]
    refine List.foldl_ext _ _ h fun h' i hi => ?_
    rw [getD_roundKeys_decipher ks _ i (List.mem_range.mp hi), halfRound]

section Avalanche

variable {w : Nat}

theorem avalanche_eq (P : Params) (h : Blk w) (k : Key) :
    avalanche P h k = blkAdd (rotColsLeft P.rotStep (rotBitsLeft P.bitRotStep
      (rotCellsRight P.rotStep (rotRowsUp P.rotStep h)))) (reduce P k) := rfl

theorem unavalanche_eq (P : Params) (h : Blk w) (k : Key) :
    unavalanche P h k = rotRowsDown P.rotStep (rotCellsLeft P.rotStep
      (rotBitsRight P.bitRotStep (rotColsRight P.rotStep (blkSub h (reduce P k))))) := rfl

/-- Each step cancels against its partner, from the inside out (R105). -/
theorem unavalanche_avalanche (P : Params) (h : Blk w) (k : Key) :
    unavalanche P (avalanche P h k) k = h := by
  rw [unavalanche_eq, avalanche_eq, blkAdd_blkSub_cancel, rotColsRight_rotColsLeft,
    rotBitsRight_rotBitsLeft, rotCellsLeft_rotCellsRight, rotRowsDown_rotRowsUp]

/-- Each step cancels against its partner, from the inside out (R105). -/
theorem avalanche_unavalanche (P : Params) (h : Blk w) (k : Key) :
    avalanche P (unavalanche P h k) k = h := by
  rw [avalanche_eq, unavalanche_eq, rotRowsUp_rotRowsDown, rotCellsRight_rotCellsLeft,
    rotBitsLeft_rotBitsRight, rotColsLeft_rotColsRight, blkSub_blkAdd_cancel]

end Avalanche

/-- Settles O49, from the two step sequences and their inverse laws above. -/
theorem unavalancheUndoesAvalanche : Obligations.UnavalancheUndoesAvalanche := fun P _ h k =>
  ⟨avalanche_eq P h k, unavalanche_eq P h k, unavalanche_avalanche P h k, avalanche_unavalanche P h k⟩

section Rounds

variable {w : Nat}

theorem encRound_l (P : Params) (h : Halves w) (k : Key) :
    (encRound P h k).l = avalanche P h.r k := rfl

theorem encRound_r (P : Params) (h : Halves w) (k : Key) :
    (encRound P h k).r = blkXor h.l (roundF P h.r k) := rfl

theorem decRound_l (P : Params) (h : Halves w) (k : Key) :
    (decRound P h k).l = unavalanche P h.r k := rfl

theorem decRound_r (P : Params) (h : Halves w) (k : Key) :
    (decRound P h k).r = blkXor h.l (roundF P (unavalanche P h.r k) k) := rfl

/-- The un-avalanched `l'` is the old `r`, so the decipher round's `F` is the encipher round's, and the
exclusive or cancels it (R102). -/
theorem decRound_encRound_swap (P : Params) (h : Halves w) (k : Key) (t : Blk w) :
    (decRound P { l := (encRound P h k).r, r := (encRound P h k).l, t := t } k).l = h.r ∧
    (decRound P { l := (encRound P h k).r, r := (encRound P h k).l, t := t } k).r = h.l := by
  have old_r : unavalanche P (encRound P h k).l k = h.r := by
    rw [encRound_l, unavalanche_avalanche]
  refine ⟨?left, ?right⟩
  case left => rw [decRound_l, old_r]
  case right => rw [decRound_r, old_r, encRound_r, blkXor_blkXor_cancel]

end Rounds

/-- Settles O50, from the halves each round leaves and the law of the exchanged halves. -/
theorem decRoundUndoesEncRound : Obligations.DecRoundUndoesEncRound := fun P _ h k t =>
  ⟨encRound_l P h k, encRound_r P h k, decRound_l P h k, decRound_r P h k,
    decRound_encRound_swap P h k t⟩

end Sys2Proof.Machine
end

section
/-! PROOFS. `DIGEST` in a live session, of 44_chained_cipher_commands.md: what the command does in either
direction (R113), and the `LAST` and the block returned of each (R114, R115). -/

namespace Sys2Proof.Machine

section DigestDirections

variable (P : Params) (b : Block) (s : State)

theorem digestByDir_encipher (enciphers : s.dir = .encipher) :
    digestByDir P b s = digestEncipher P b s := by
  rw [digestByDir, enciphers]

theorem digestByDir_decipher (deciphers : s.dir = .decipher) :
    digestByDir P b s = digestDecipher P b s := by
  rw [digestByDir, deciphers]

/-- The ciphertext is returned and kept as `LAST` (R114). -/
theorem digestEncipher_out :
    (digestEncipher P b s).2 = (run P s.ks (blkXor b s.last) .encipher).1 := rfl

theorem digestEncipher_last :
    (digestEncipher P b s).1.last = (run P s.ks (blkXor b s.last) .encipher).1 := rfl

theorem digestEncipher_dir : (digestEncipher P b s).1.dir = s.dir := rfl

/-- The rounds and the ratchet keep `LAST`, so the exclusive or still reads the old one (R115). -/
theorem digestDecipher_out :
    (digestDecipher P b s).2 = blkXor (run P s.ks b .decipher).1 s.last := rfl

theorem digestDecipher_last : (digestDecipher P b s).1.last = b := rfl

theorem digestDecipher_dir : (digestDecipher P b s).1.dir = s.dir := rfl

/-- Neither direction writes `DIR` (R113). -/
theorem digestByDir_dir : (digestByDir P b s).1.dir = s.dir := by
  cases direction : s.dir with
  | encipher => rw [digestByDir_encipher P b s direction, digestEncipher_dir, direction]
  | decipher => rw [digestByDir_decipher P b s direction, digestDecipher_dir, direction]

end DigestDirections

/-- `DIGEST` in a live session, either direction: the ratcheted keyset, `digestByDir`'s `LAST`, its block in
an `OK` response, and both flags kept (R113). -/
theorem exec_digest_fields (b : Block) (s : State) (live : s.live = true) :
    ∃ t, exec (.digest b) s = .next t ∧
      t.ks = keySchedule Config.device s.ks[63] ∧
      t.last = (digestByDir Config.device b s).1.last ∧
      t.rsp = some (frameOf okCode (digestByDir Config.device b s).2) ∧
      t.cmd = none ∧ t.dir = s.dir ∧ t.live = true := by
  refine ⟨_, exec_digest_of_live b s live, ?ks, ?last, respond_rsp _ _ _, respond_cmd _ _ _, ?dir, ?live⟩
  case ks => rw [respond_ks, clearTransients_ks, digestByDir_ks]
  case last => rw [respond_last, clearTransients_last]
  case dir => rw [respond_dir, clearTransients_dir, digestByDir_dir]
  case live => rw [respond_live, clearTransients_live, digestByDir_live, live]

/-- Settles O8: the shared fields of `DIGEST`, with the ciphertext as `LAST` and as the returned block. -/
theorem digestEnciphers : Obligations.DigestEnciphers := by
  intro b s live enciphers
  obtain ⟨t, runs, ks, last, rsp, cmd, dir, live'⟩ := exec_digest_fields b s live
  rw [digestByDir_encipher _ b s enciphers] at last rsp
  rw [digestEncipher_last] at last
  rw [digestEncipher_out, okCode] at rsp
  rw [enciphers] at dir
  rw [← run_keyset Config.device s.ks (blkXor b s.last) .encipher] at ks
  exact ⟨t, runs, ks, last, rsp, cmd, dir, live'⟩

/-- Settles O9: the shared fields of `DIGEST`, with the operand as `LAST` and the old `LAST` in the returned
block. -/
theorem digestDeciphers : Obligations.DigestDeciphers := by
  intro b s live deciphers
  obtain ⟨t, runs, ks, last, rsp, cmd, dir, live'⟩ := exec_digest_fields b s live
  rw [digestByDir_decipher _ b s deciphers] at last rsp
  rw [digestDecipher_last] at last
  rw [digestDecipher_out, okCode] at rsp
  rw [deciphers] at dir
  rw [← run_keyset Config.device s.ks b .decipher] at ks
  exact ⟨t, runs, ks, last, rsp, cmd, dir, live'⟩

end Sys2Proof.Machine
end

section
/-! PROOFS. The byte form of 20_memory.md (R27) and the key file of 45_clients_keyedhash_prng_key.md (R137):
each byte of `Bytes(b)`, and that it undoes and is undone by `blockOfBytes`. -/

namespace Sys2Proof.Machine

section ByteForm

variable {w : Nat}

/-- Where every element maps to `n` elements, element `n*i + k` of the whole is element `k` of part `i`. -/
theorem getElem?_flatMap_of_length_eq {α β : Type} {f : α → List β} {n : Nat}
    (parts : ∀ x, (f x).length = n) (l : List α) (i : Nat) {k : Nat} (hk : k < n) :
    (l.flatMap f)[n * i + k]? = l[i]?.bind fun x => (f x)[k]? := by
  induction l generalizing i with
  | nil => simp
  | cons x l ih =>
    rw [List.flatMap_cons]
    cases i with
    | zero =>
      have first : n * 0 + k < (f x).length := by rw [parts]; omega
      rw [List.getElem?_append_left first, Nat.mul_zero, Nat.zero_add]
      rfl
    | succ i =>
      have later : (f x).length ≤ n * (i + 1) + k := by rw [parts, Nat.mul_succ]; omega
      have rest : n * (i + 1) + k - (f x).length = n * i + k := by rw [parts, Nat.mul_succ]; omega
      rw [List.getElem?_append_right later, rest, ih, List.getElem?_cons_succ]

theorem length_bytes (b : Blk w) : (bytes b).length = 16 * (w / 8) := by
  simp only [bytes, List.length_flatMap, List.length_map, List.length_range, List.map_const',
    List.sum_replicate, Vector.length_toList, smul_eq_mul]

/-- Byte `k` of word `i` stands at `(w/8)*i + k` of the byte form (R27). -/
theorem getElem?_bytes (b : Blk w) {i k : Nat} (hi : i < 16) (hk : k < w / 8) :
    (bytes b)[w / 8 * i + k]? = some (wordByte b[i] k) := by
  rw [bytes, getElem?_flatMap_of_length_eq (by simp) _ i hk]
  simp [hi, hk]

/-- A Block has four bytes a word (R27). -/
theorem getD_bytes (b : Block) {i k : Nat} (hi : i < 16) (hk : k < 4) :
    (bytes b).getD (4 * i + k) 0 = wordByte b[i] k := by
  rw [List.getD_eq_getElem?_getD, getElem?_bytes b hi hk, Option.getD_some]

/-- Byte `k` of four bytes written one after another (R27). -/
theorem wordByte_of_append (f : Nat → Byte) {k : Nat} (hk : k < 4) :
    wordByte (f 0 ++ f 1 ++ f 2 ++ f 3 : BitVec 32) k = f k := by
  apply BitVec.eq_of_getLsbD_eq
  intro j hj
  simp only [wordByte, BitVec.getLsbD_extractLsb', BitVec.getLsbD_append]
  interval_cases k <;> grind

end ByteForm

/-- A Block is read back from its byte form (R27). -/
theorem blockOfBytes_bytes (b : Block) : blockOfBytes (bytes b) = b := by
  apply Vector.ext
  intro i hi
  have first : (bytes b).getD (4 * i) 0 = wordByte b[i] 0 := getD_bytes b hi (k := 0) (by decide)
  have later : ∀ k < 4, (bytes b).getD (4 * i + k) 0 = wordByte b[i] k := fun _ => getD_bytes b hi
  rw [blockOfBytes, Vector.getElem_ofFn, first, later 1 (by decide), later 2 (by decide),
    later 3 (by decide), wordByte_append]

/-- Byte `k` of word `i` of a Block built from bytes, missing bytes read as 0x00. -/
theorem wordByte_blockOfBytes (bs : List Byte) {i k : Nat} (hi : i < 16) (hk : k < 4) :
    wordByte (blockOfBytes bs)[i] k = bs.getD (4 * i + k) 0 := by
  rw [blockOfBytes, Vector.getElem_ofFn]
  exact wordByte_of_append (fun k => bs.getD (4 * i + k) 0) hk

/-- The first `n` elements, padded with `d` to `n`, are those a read with default `d` gives. -/
theorem getElem?_take_append_replicate {α : Type} (l : List α) (d : α) {n j : Nat} (hj : j < n) :
    (l.take n ++ List.replicate (n - l.length) d)[j]? = some (l.getD j d) := by
  rcases Nat.lt_or_ge j l.length with inside | beyond
  · rw [List.getElem?_append_left (by rw [List.length_take]; omega), List.getElem?_take_of_lt hj,
      List.getElem?_eq_getElem inside, List.getD_eq_getElem l d inside]
  · rw [List.getElem?_append_right (by rw [List.length_take]; omega), List.length_take,
      List.getElem?_replicate_of_lt (by omega), List.getD_eq_default l d beyond]

/-- The byte form of a Block built from bytes: the first 64, padded with 0x00 to 64 (R27, R137). -/
theorem bytes_blockOfBytes (bs : List Byte) :
    bytes (blockOfBytes bs) = bs.take 64 ++ List.replicate (64 - bs.length) 0x00#8 := by
  apply List.ext_getElem?'
  intro j hj
  have in_block : j < 64 := by
    rw [length_bytes, List.length_append, List.length_take, List.length_replicate] at hj
    omega
  have word_lt : j / 4 < 16 := by omega
  have byte_lt : j % 4 < 4 := Nat.mod_lt j (by decide)
  calc (bytes (blockOfBytes bs))[j]?
      = (bytes (blockOfBytes bs))[4 * (j / 4) + j % 4]? := by rw [Nat.div_add_mod]
    _ = some (wordByte (blockOfBytes bs)[j / 4] (j % 4)) := getElem?_bytes _ word_lt byte_lt
    _ = some (bs.getD j 0) := by rw [wordByte_blockOfBytes bs word_lt byte_lt, Nat.div_add_mod]
    _ = _ := (getElem?_take_append_replicate bs _ in_block).symm

/-- Settles O34: loading is `blockOfBytes`, writing is `bytes`, and each undoes the other. -/
theorem keyFilesLoadZeroPadded : Obligations.KeyFilesLoadZeroPadded := by
  refine ⟨rfl, fun d => ⟨blockOfBytes d, rfl, bytes_blockOfBytes d⟩,
    fun key => ⟨rfl, length_bytes key, ?loads_back⟩⟩
  case loads_back => rw [writeKeyFile, loadKeyFile, blockOfBytes_bytes]

end Sys2Proof.Machine
end

section
/-! PROOFS. What each command of 44_chained_cipher_commands.md does, said once for every parameter record:
one equation for each command, and one inversion lemma for `execWith` that later proofs split on. -/

namespace Sys2Proof.Machine

section Commands

variable (P : Params) (s : State)

theorem execWith_status :
    execWith P .status s = .next (s.respond okCode (statusBlock s.dir s.live)) := rfl

theorem execWith_initOf (dir : Direction) (key : Key) :
    execWith P (initOf dir key) s = .next (initSession P dir key s) := by
  cases dir <;> rfl

theorem execWith_digest_of_live (b : Block) (live : s.live = true) :
    execWith P (.digest b) s = .next
      ((digestByDir P b s).1.clearTransients.respond okCode (digestByDir P b s).2) :=
  congrArg Host.Outcome.next (whenLive_live _ s live)

theorem execWith_digest_of_dead (b : Block) (dead : s.live = false) :
    execWith P (.digest b) s = .next (s.raise .notLive) :=
  congrArg Host.Outcome.next (whenLive_dead _ s dead)

theorem execWith_rekey_of_live (key : Key) (keeps : P.rekeyKeepsLast = true) (live : s.live = true) :
    execWith P (.rekey key) s = .next
      ((s.loadSchedule P key).clearTransients.respond okCode (blkZero 32)) := by
  simp only [execWith, rekeySession, whenLive_live _ s live, keeps, if_true]

theorem execWith_rekey_of_dead (key : Key) (dead : s.live = false) :
    execWith P (.rekey key) s = .next (s.raise .notLive) :=
  congrArg Host.Outcome.next (whenLive_dead _ s dead)

theorem execWith_zeroize :
    execWith P .zeroize s = .next (s.destroySession.respond okCode (blkZero 32)) := rfl

/-- A command reads the flags, fails for want of a session, or clears the transients and answers `OK`
(R113, R117, R120, R153). -/
theorem execWith_cases (i : Instr) :
    (i = .status ∧ execWith P i s = .next (s.respond okCode (statusBlock s.dir s.live))) ∨
    (s.live = false ∧ (∃ b, i = .digest b ∨ i = .rekey b) ∧
      execWith P i s = .next (s.raise .notLive)) ∨
    (i ≠ .status ∧ ∃ u p, execWith P i s = .next (State.respond okCode p (State.clearTransients u))) := by
  cases i with
  | status => exact .inl ⟨rfl, rfl⟩
  | initE key => exact .inr (.inr ⟨by simp, _, _, rfl⟩)
  | initD key => exact .inr (.inr ⟨by simp, _, _, rfl⟩)
  | digest b =>
    cases live : s.live with
    | true => exact .inr (.inr ⟨by simp, _, _, execWith_digest_of_live P s b live⟩)
    | false => exact .inr (.inl ⟨rfl, ⟨b, .inl rfl⟩, execWith_digest_of_dead P s b live⟩)
  | rekey key =>
    cases live : s.live with
    | true => exact .inr (.inr ⟨by simp, _, _, congrArg Host.Outcome.next (whenLive_live _ s live)⟩)
    | false => exact .inr (.inl ⟨rfl, ⟨key, .inr rfl⟩, execWith_rekey_of_dead P s key live⟩)
  | zeroize => exact .inr (.inr ⟨by simp, _, _, rfl⟩)

/-- Every command ends with one response, `OK` or `ERR_NOT_LIVE` (R34, R48). -/
theorem execWith_responds (i : Instr) :
    ∃ u st p, execWith P i s = .next (State.respond st p u) ∧ (st = okCode ∨ st = errCode .notLive) := by
  obtain ⟨-, runs⟩ | ⟨-, -, runs⟩ | ⟨-, u, p, runs⟩ := execWith_cases P s i
  · exact ⟨_, _, _, runs, .inl rfl⟩
  · exact ⟨_, _, _, runs, .inr rfl⟩
  · exact ⟨_, _, _, runs, .inl rfl⟩

end Commands

/-- Settles O2: the step adds nothing around `exec`. -/
theorem stepRunsTheDecodedCommand : Obligations.StepRunsTheDecodedCommand := by
  intro s f i cmd rsp decodes _
  exact ⟨stepBy_command exec s f i cmd rsp decodes, congrFun (congrFun exec_eq_execWith i) s,
    fun P => stepBy_command (execWith P) s f i cmd rsp decodes⟩

/-- Settles O3, from the illegal branch of the step. -/
theorem stepAnswersIllegalFrames : Obligations.StepAnswersIllegalFrames :=
  fun s f e cmd rsp rejects => stepBy_illegal exec s f e cmd rsp rejects

/-- While a response waits the core holds its state (R34). -/
theorem stepBy_waiting (execute : Instr → State → Host.Outcome State Fault Refusal) (s : State)
    (waits : s.rsp ≠ none) : stepBy execute s = .next s := by
  obtain ⟨r, rsp⟩ := Option.ne_none_iff_exists'.mp waits
  cases cmd : s.cmd with
  | none => exact stepBy_idle execute s cmd
  | some f => simp only [stepBy, cmd, rsp]

/-- Settles O4: both ways in which nothing is to be done. -/
theorem stepHoldsWhenIdleOrWaiting : Obligations.StepHoldsWhenIdleOrWaiting :=
  fun s => ⟨stepBy_idle exec s, stepBy_waiting exec s⟩

/-- A step holds the state, answers an illegal frame, or runs the decoded command (R34, R121, R162). -/
theorem stepBy_cases (execute : Instr → State → Host.Outcome State Fault Refusal) (s : State) :
    ((s.cmd = none ∨ s.rsp ≠ none) ∧ stepBy execute s = .next s) ∨
    (∃ f, s.cmd = some f ∧ s.rsp = none ∧
      ((∃ e, decode f = .error e) ∧ stepBy execute s = .next (s.raise .illegal) ∨
        ∃ i, decode f = .ok i ∧ stepBy execute s = execute i s)) := by
  cases cmd : s.cmd with
  | none => exact .inl ⟨.inl rfl, stepBy_idle execute s cmd⟩
  | some f =>
    by_cases rsp : s.rsp = none
    · refine .inr ⟨f, rfl, rsp, ?_⟩
      cases decodes : decode f with
      | error e => exact .inl ⟨⟨e, rfl⟩, stepBy_illegal execute s f e cmd rsp decodes⟩
      | ok i => exact .inr ⟨i, rfl, stepBy_command execute s f i cmd rsp decodes⟩
    · exact .inl ⟨.inr rsp, stepBy_waiting execute s rsp⟩

/-- A frame in progress is answered by one response, with one of the three codes (R34, R48). -/
theorem stepWith_responds (P : Params) (s : State) (f : Frame) (cmd : s.cmd = some f)
    (rsp : s.rsp = none) :
    ∃ u st p, stepWith P s = .next (State.respond st p u) ∧
      (st = okCode ∨ st = errCode .illegal ∨ st = errCode .notLive) := by
  obtain ⟨holds, -⟩ | ⟨-, -, -, ⟨-, runs⟩ | ⟨i, -, runs⟩⟩ := stepBy_cases (execWith P) s
  · simp [cmd, rsp] at holds
  · exact ⟨_, _, _, runs, .inr (.inl rfl)⟩
  · obtain ⟨u, st, p, answers, code⟩ := execWith_responds P s i
    exact ⟨u, st, p, runs.trans answers, code.imp_right .inr⟩

theorem stepWith_total (P : Params) (s : State) : ∃ s', stepWith P s = .next s' := by
  obtain ⟨-, runs⟩ | ⟨-, -, -, ⟨-, runs⟩ | ⟨i, -, runs⟩⟩ := stepBy_cases (execWith P) s
  · exact ⟨_, runs⟩
  · exact ⟨_, runs⟩
  · obtain ⟨u, st, p, answers, -⟩ := execWith_responds P s i
    exact ⟨_, runs.trans answers⟩

/-- Settles O5: the core's step is one of the parametric steps. -/
theorem stepIsTotalAndAnswers : Obligations.StepIsTotalAndAnswers := by
  intro core which
  obtain ⟨P, rfl⟩ : ∃ P, core = stepWith P := by
    obtain rfl | known := which
    · exact ⟨_, step_eq_stepWith⟩
    · exact known
  refine ⟨stepWith_total P, fun s f cmd rsp => ?answers⟩
  case answers =>
    obtain ⟨u, st, p, runs, code⟩ := stepWith_responds P s f cmd rsp
    refine ⟨_, frameOf st p, runs, respond_cmd _ _ _, respond_rsp _ _ _, ?_⟩
    rwa [frameHead_frameOf]

end Sys2Proof.Machine
end

section
/-! PROOFS. The six commands of the core as statements about `exec` (44_chained_cipher_commands.md sections 2
to 5, 60_exceptions.md): the whole next state of each, the transient registers, the frame of each command
and what its answer depends on. -/

namespace Sys2Proof.Machine

section StatusWord

theorem getLsbD_statusWord (dir : Direction) (live : Bool) (k : Nat) :
    (statusWord dir live).getLsbD k
      = (decide (k = 0) && live || decide (k = 1) && decide (dir = .decipher)) := by
  obtain rfl | rfl | beyond : k = 0 ∨ k = 1 ∨ 2 ≤ k := by omega
  · cases dir <;> cases live <;> decide
  · cases dir <;> cases live <;> decide
  · have not_flag : k ≠ 0 ∧ k ≠ 1 := by omega
    have small : (statusWord dir live).toNat < 2 ^ k :=
      lt_of_lt_of_le (by cases dir <;> cases live <;> decide) (Nat.pow_le_pow_right (by decide) beyond)
    rw [← BitVec.testBit_toNat, Nat.testBit_lt_two_pow small]
    simp [not_flag]

theorem getElem_statusBlock_zero (dir : Direction) (live : Bool) :
    (statusBlock dir live)[0] = statusWord dir live := by
  simp [statusBlock]

theorem getElem_statusBlock_of_pos (dir : Direction) (live : Bool) {j : Nat} (hj : j < 16)
    (pos : 1 ≤ j) : (statusBlock dir live)[j] = 0#32 := by
  have other : 0 ≠ j := by omega
  rw [statusBlock, Vector.getElem_set_ne _ hj other]
  exact getElem_blkZero j hj

end StatusWord

/-- Settles O6: the bits of the STATUS word, by `getLsbD_statusWord`. -/
theorem statusCompletes : Obligations.StatusCompletes := by
  intro s
  refine ⟨statusBlock s.dir s.live, execWith_status Config.device s, ?live, ?dir, ?other_bits,
    fun j hj => getElem_statusBlock_of_pos _ _ hj⟩
  case live => rw [getElem_statusBlock_zero, getLsbD_statusWord]; simp
  case dir => rw [getElem_statusBlock_zero, getLsbD_statusWord]; simp
  case other_bits =>
    intro k hk
    have not_flag : k ≠ 0 ∧ k ≠ 1 := by omega
    rw [getElem_statusBlock_zero, getLsbD_statusWord]
    simp [not_flag]

/-- Settles O7: the device derives the IV on a temporary network, so nothing of the old state is left. -/
theorem initCompletes : Obligations.InitCompletes := fun key s =>
  ⟨congrArg Host.Outcome.next (initSession_eq Config.device rfl .encipher key s),
    congrArg Host.Outcome.next (initSession_eq Config.device rfl .decipher key s)⟩

/-- Settles O11: the device's `REKEY` loads the schedule and derives no IV. -/
theorem rekeyCompletes : Obligations.RekeyCompletes := by
  intro key s live
  rw [exec_eq_execWith, execWith_rekey_of_live _ s key rfl live, loadSchedule_eq, clearTransients_eq,
    respond_eq]
  rfl

/-- Settles O12, by the state a destroyed session leaves. -/
theorem zeroizeCompletes : Obligations.ZeroizeCompletes := by
  intro s
  rw [exec_eq_execWith, execWith_zeroize, destroySession_eq, respond_eq]
  rfl

/-- Settles O13: both commands raise `NotLive`, which writes no register. -/
theorem notLiveIsAnswered : Obligations.NotLiveIsAnswered := fun b s dead =>
  ⟨execWith_digest_of_dead Config.device s b dead, execWith_rekey_of_dead Config.device s b dead⟩

/-- Settles O15: of the three ways a command can end, want of a session is excluded. -/
theorem legalCommandsAnswerOk : Obligations.LegalCommandsAnswerOk := by
  intro i s legal
  rw [exec_eq_execWith]
  obtain ⟨-, runs⟩ | ⟨dead, ⟨b, needs⟩, -⟩ | ⟨-, u, p, runs⟩ := execWith_cases Config.device s i
  · exact ⟨_, _, runs, rfl, rfl⟩
  · obtain live | exempt := legal
    · simp [live] at dead
    · exact absurd needs (not_or.mpr (exempt b))
  · exact ⟨_, _, runs, rfl, rfl⟩

theorem respondsOk_frameOf (st : Byte) (p : Block) :
    respondsOk (some (frameOf st p)) = (st == okCode) := by
  simp [respondsOk]

/-- Settles O10, by the inversion of `exec`: only the third way of ending clears the transients, and it is
the one that answers `OK` without being `STATUS`. -/
theorem transientsEndZero : Obligations.TransientsEndZero := by
  intro i s s' runs
  rw [exec_eq_execWith] at runs
  obtain ⟨rfl, ends⟩ | ⟨-, -, ends⟩ | ⟨other, u, p, ends⟩ := execWith_cases Config.device s i
  · obtain rfl := Host.Outcome.next.inj (ends.symm.trans runs)
    rw [if_pos (.inl rfl)]
    exact ⟨rfl, rfl, rfl⟩
  · obtain rfl := Host.Outcome.next.inj (ends.symm.trans runs)
    rw [if_pos (.inr (by rw [raise_rsp, respondsOk_frameOf]; decide))]
    exact ⟨rfl, rfl, rfl⟩
  · obtain rfl := Host.Outcome.next.inj (ends.symm.trans runs)
    have ok : respondsOk (some (frameOf okCode p)) = true := by simp [respondsOk_frameOf]
    rw [respond_rsp, ok, if_neg (by simp [other])]
    exact ⟨rfl, rfl, clearTransients_tks u⟩

/-- A command answered with an error has moved no register (R158). -/
theorem execWith_error_frame (P : Params) {i : Instr} {s s' : State} {r : Frame}
    (runs : execWith P i s = .next s') (rsp : s'.rsp = some r) (error : frameHead r ≠ okCode) :
    s' = { s with cmd := none, rsp := some r } := by
  obtain ⟨-, ends⟩ | ⟨-, -, ends⟩ | ⟨-, u, p, ends⟩ := execWith_cases P s i
  all_goals
    obtain rfl := Host.Outcome.next.inj (ends.symm.trans runs)
    obtain rfl := Option.some.inj rsp
  · exact absurd (frameHead_frameOf _ _) error
  · rfl
  · exact absurd (frameHead_frameOf _ _) error

/-- `DIGEST` keeps both flags on either path (R19, R113). -/
theorem execWith_digest_flags (P : Params) {b : Block} {s s' : State}
    (runs : execWith P (.digest b) s = .next s') : s'.dir = s.dir ∧ s'.live = s.live := by
  cases live : s.live with
  | true =>
    obtain rfl := Host.Outcome.next.inj ((execWith_digest_of_live P s b live).symm.trans runs)
    exact ⟨digestByDir_dir P b s, (digestByDir_live P b s).trans live⟩
  | false =>
    obtain rfl := Host.Outcome.next.inj ((execWith_digest_of_dead P s b live).symm.trans runs)
    exact ⟨rfl, live⟩

/-- `REKEY` keeps `LAST` and both flags on either path (R19, R117). -/
theorem execWith_rekey_frame (P : Params) (keeps : P.rekeyKeepsLast = true) {key : Key} {s s' : State}
    (runs : execWith P (.rekey key) s = .next s') :
    s'.last = s.last ∧ s'.dir = s.dir ∧ s'.live = s.live := by
  cases live : s.live with
  | true =>
    obtain rfl := Host.Outcome.next.inj ((execWith_rekey_of_live P s key keeps live).symm.trans runs)
    exact ⟨rfl, rfl, live⟩
  | false =>
    obtain rfl := Host.Outcome.next.inj ((execWith_rekey_of_dead P s key live).symm.trans runs)
    exact ⟨rfl, rfl, live⟩

/-- Settles O14, from the frame of each command and of an error. -/
theorem commandsTouchOnlyTheirRegisters : Obligations.CommandsTouchOnlyTheirRegisters := by
  intro i s s' runs
  rw [exec_eq_execWith] at runs
  refine ⟨?status, ?digest, ?rekey, fun r => execWith_error_frame Config.device runs⟩
  case status =>
    rintro rfl
    obtain rfl := Host.Outcome.next.inj ((execWith_status Config.device s).symm.trans runs)
    exact ⟨rfl, rfl, rfl, rfl, rfl, rfl, rfl⟩
  case digest =>
    rintro b rfl
    exact execWith_digest_flags Config.device runs
  case rekey =>
    rintro key rfl
    exact execWith_rekey_frame Config.device rfl runs

/-- The response to each command but `DIGEST`, from the control byte and the flags alone. -/
def controlAnswer (ctl : Byte) (dir : Direction) (live : Bool) : Frame :=
  if ctl = 0x00#8 then frameOf okCode (statusBlock dir live)
  else if ctl = 0x30#8 ∧ live = false then frameOf (errCode .notLive) (blkZero 32)
  else frameOf okCode (blkZero 32)

theorem exec_rsp_eq_controlAnswer {i : Instr} {s s' : State} (no_digest : ctlOf i ≠ 0x20#8)
    (runs : exec i s = .next s') : s'.rsp = some (controlAnswer (ctlOf i) s.dir s.live) := by
  rw [exec_eq_execWith] at runs
  cases i with
  | status => obtain rfl := Host.Outcome.next.inj runs; rfl
  | initE key => obtain rfl := Host.Outcome.next.inj runs; rfl
  | initD key => obtain rfl := Host.Outcome.next.inj runs; rfl
  | digest b => exact absurd rfl no_digest
  | rekey key =>
    cases live : s.live with
    | true =>
      obtain rfl := Host.Outcome.next.inj ((execWith_rekey_of_live _ s key rfl live).symm.trans runs)
      rfl
    | false =>
      obtain rfl := Host.Outcome.next.inj ((execWith_rekey_of_dead _ s key live).symm.trans runs)
      rfl
  | zeroize => obtain rfl := Host.Outcome.next.inj runs; rfl

/-- Settles O20: the answer is a function of the control byte and the two flags. -/
theorem keyMaterialIsNotReturned : Obligations.KeyMaterialIsNotReturned := by
  intro i j s t s' t' same_ctl no_digest same_live same_dir runs runs'
  rw [exec_rsp_eq_controlAnswer no_digest runs, exec_rsp_eq_controlAnswer (same_ctl ▸ no_digest) runs',
    same_ctl, same_live, same_dir]

/-- A command keeps both flags, or is an `INIT` and leaves a session, or is `ZEROIZE` and leaves none. -/
theorem exec_keeps_flags_or_initOf_or_zeroize {i : Instr} {s s' : State} (runs : exec i s = .next s') :
    (s'.dir = s.dir ∧ s'.live = s.live) ∨
    (s'.live = true ∧ ∃ key, i = .initE key ∨ i = .initD key) ∨ (s'.live = false ∧ i = .zeroize) := by
  rw [exec_eq_execWith] at runs
  cases i with
  | status => obtain rfl := Host.Outcome.next.inj runs; exact .inl ⟨rfl, rfl⟩
  | initE key => obtain rfl := Host.Outcome.next.inj runs; exact .inr (.inl ⟨rfl, key, .inl rfl⟩)
  | initD key => obtain rfl := Host.Outcome.next.inj runs; exact .inr (.inl ⟨rfl, key, .inr rfl⟩)
  | digest b => exact .inl (execWith_digest_flags Config.device runs)
  | rekey key =>
    obtain ⟨-, flags⟩ := execWith_rekey_frame Config.device rfl runs
    exact .inl flags
  | zeroize => obtain rfl := Host.Outcome.next.inj runs; exact .inr (.inr ⟨rfl, rfl⟩)

/-- The same of a step: it keeps both flags, or the frame in progress is an `INIT` or a `ZEROIZE`. -/
theorem step_keeps_flags_or_initOf_or_zeroize {s s' : State} (runs : step s = .next s') :
    (s'.dir = s.dir ∧ s'.live = s.live) ∨
    ∃ f i, s.cmd = some f ∧ decode f = .ok i ∧
      ((s'.live = true ∧ ∃ key, i = .initE key ∨ i = .initD key) ∨
        (s'.live = false ∧ i = .zeroize)) := by
  obtain ⟨-, ends⟩ | ⟨f, cmd, -, ⟨-, ends⟩ | ⟨i, decodes, ends⟩⟩ := stepBy_cases exec s
  · obtain rfl := Host.Outcome.next.inj (ends.symm.trans runs)
    exact .inl ⟨rfl, rfl⟩
  · obtain rfl := Host.Outcome.next.inj (ends.symm.trans runs)
    exact .inl ⟨rfl, rfl⟩
  · obtain flags | sets := exec_keeps_flags_or_initOf_or_zeroize (ends.symm.trans runs)
    · exact .inl flags
    · exact .inr ⟨f, i, cmd, decodes, sets⟩

/-- Settles O19, by the two ways in which a step can move a flag. -/
theorem onlyInitAndZeroizeSetTheFlags : Obligations.OnlyInitAndZeroizeSetTheFlags := by
  intro s s' runs
  obtain ⟨dir, live⟩ | ⟨f, i, cmd, decodes, ⟨raised, key, init⟩ | ⟨fell, rfl⟩⟩ :=
    step_keeps_flags_or_initOf_or_zeroize runs
  · rw [dir, live]
    exact ⟨fun moved => absurd rfl moved, fun was now => by simp [was] at now,
      fun was now => by simp [was] at now⟩
  · exact ⟨fun _ => ⟨f, i, cmd, decodes, .inr ⟨key, init⟩⟩, fun _ _ => ⟨f, i, key, cmd, decodes, init⟩,
      fun _ now => by simp [raised] at now⟩
  · exact ⟨fun _ => ⟨f, _, cmd, decodes, .inl rfl⟩, fun _ now => by simp [fell] at now,
      fun _ _ => ⟨f, cmd, decodes⟩⟩

end Sys2Proof.Machine
end

section
/-! PROOFS. The invariant of the core, kept by every step and every event at the port (10_state.md sections 2
and 4, 20_memory.md section 4), and transactions: one response each, and no trace of an error
(60_exceptions.md R158, R159). -/

namespace Sys2Proof.Machine

section Invariant

/-- A response the invariant allows: `OK`, or an error with a zero payload (R47, R48). -/
theorem rspLegal_of_frameOf {s : State} {st : Byte} {p : Block} (rsp : s.rsp = some (frameOf st p))
    (legal : st = okCode ∨ ((st = errCode .illegal ∨ st = errCode .notLive) ∧ p = blkZero 32)) :
    s.rspLegal := by
  intro r held
  obtain rfl := Option.some.inj (rsp.symm.trans held)
  rwa [frameHead_frameOf, framePayload_frameOf]

/-- An answer that moves no register and is legal keeps the invariant (R158, R120). -/
theorem inv_respond {s : State} (inv : s.Inv) {st : Byte} {p : Block}
    (legal : st = okCode ∨ ((st = errCode .illegal ∨ st = errCode .notLive) ∧ p = blkZero 32)) :
    (s.respond st p).Inv where
  dead := inv.dead
  transients := inv.transients
  port := .inl rfl
  keyset := inv.keyset
  response := rspLegal_of_frameOf rfl legal

theorem inv_raise {s : State} (inv : s.Inv) (e : CoreError) : (s.raise e).Inv :=
  inv_respond inv (.inr ⟨by cases e <;> simp, rfl⟩)

/-- A command that leaves a session with a keyset from the schedule, whatever the seed, establishes the
invariant (R14, R92). -/
theorem inv_of_live {s : State} {p : Block} (live : s.live = true) (seed : Key)
    (scheduled : s.ks = keySchedule Config.device seed) (transients : s.transientsZero)
    (cmd : s.cmd = none) (rsp : s.rsp = some (frameOf okCode p)) : s.Inv where
  dead := fun dead => absurd (live.symm.trans dead) (by decide)
  transients := transients
  port := .inl cmd
  keyset := fun _ => by rw [scheduled, keySchedule_first]
  response := rspLegal_of_frameOf rsp (.inl rfl)

theorem inv_initSession (dir : Direction) (key : Key) (s : State) :
    (initSession Config.device dir key s).Inv := by
  rw [initSession_eq Config.device rfl]
  exact inv_of_live rfl key rfl ⟨rfl, rfl, rfl⟩ rfl rfl

theorem transientsZero_answered (u : State) (p : Block) :
    (u.clearTransients.respond okCode p).transientsZero :=
  ⟨rfl, rfl, clearTransients_tks u⟩

/-- What `ZEROIZE` leaves has the invariant whatever came before (R119). -/
theorem inv_zeroized (s : State) : (s.destroySession.respond okCode (blkZero 32)).Inv where
  dead := fun _ => ⟨destroySession_ks s, rfl, rfl⟩
  transients := ⟨rfl, rfl, destroySession_tks s⟩
  port := .inl rfl
  keyset := fun live => absurd live (by simp)
  response := rspLegal_of_frameOf rfl (.inl rfl)

/-- Every command keeps the invariant. -/
theorem exec_keeps_inv {i : Instr} {s s' : State} (inv : s.Inv) (runs : exec i s = .next s') :
    s'.Inv := by
  rw [exec_eq_execWith] at runs
  cases i with
  | status => obtain rfl := Host.Outcome.next.inj runs; exact inv_respond inv (.inl rfl)
  | initE key => obtain rfl := Host.Outcome.next.inj runs; exact inv_initSession .encipher key s
  | initD key => obtain rfl := Host.Outcome.next.inj runs; exact inv_initSession .decipher key s
  | digest b =>
    cases live : s.live with
    | true =>
      obtain rfl := Host.Outcome.next.inj ((execWith_digest_of_live _ s b live).symm.trans runs)
      exact inv_of_live ((digestByDir_live _ b s).trans live) s.ks[63] (digestByDir_ks _ b s)
        (transientsZero_answered _ _) rfl rfl
    | false =>
      obtain rfl := Host.Outcome.next.inj ((execWith_digest_of_dead _ s b live).symm.trans runs)
      exact inv_raise inv .notLive
  | rekey key =>
    cases live : s.live with
    | true =>
      obtain rfl := Host.Outcome.next.inj ((execWith_rekey_of_live _ s key rfl live).symm.trans runs)
      exact inv_of_live live key rfl (transientsZero_answered _ _) rfl rfl
    | false =>
      obtain rfl := Host.Outcome.next.inj ((execWith_rekey_of_dead _ s key live).symm.trans runs)
      exact inv_raise inv .notLive
  | zeroize => obtain rfl := Host.Outcome.next.inj runs; exact inv_zeroized s

theorem step_keeps_inv {s s' : State} (inv : s.Inv) (runs : step s = .next s') : s'.Inv := by
  obtain ⟨-, ends⟩ | ⟨-, -, -, ⟨-, ends⟩ | ⟨i, -, ends⟩⟩ := stepBy_cases exec s
  · obtain rfl := Host.Outcome.next.inj (ends.symm.trans runs)
    exact inv
  · obtain rfl := Host.Outcome.next.inj (ends.symm.trans runs)
    exact inv_raise inv .illegal
  · exact exec_keeps_inv inv (ends.symm.trans runs)

theorem inv_reset : State.reset.Inv where
  dead := fun _ => ⟨rfl, rfl, rfl⟩
  transients := ⟨rfl, rfl, rfl⟩
  port := .inl rfl
  keyset := fun live => absurd live (by simp)
  response := fun _ held => absurd held (by simp)

/-- A frame taken by an idle core moves the command channel only, and a busy core takes none (R34). -/
theorem inv_offer (f : Frame) {s : State} (inv : s.Inv) : (s.offer f).Inv := by
  cases ready : s.cmdReady with
  | false => rwa [offer_busy f s ready]
  | true =>
    simp only [State.cmdReady, Bool.and_eq_true, Option.isNone_iff_eq_none] at ready
    obtain ⟨cmd, rsp⟩ := ready
    rw [offer_idle f s cmd rsp]
    exact { dead := inv.dead, transients := inv.transients, port := .inr rsp, keyset := inv.keyset,
            response := inv.response }

theorem inv_take {s : State} (inv : s.Inv) : s.take.1.Inv where
  dead := inv.dead
  transients := inv.transients
  port := .inr rfl
  keyset := inv.keyset
  response := fun _ held => absurd held (by simp)

end Invariant

/-- Settles O16. -/
theorem invHoldsAtReset : Obligations.InvHoldsAtReset := inv_reset

/-- Settles O17: by the three ways a step can end, and command by command for the third. -/
theorem stepKeepsInv : Obligations.StepKeepsInv := fun _ _ => step_keeps_inv

/-- Settles O18: each act at the port by its own lemma, the core's step by `step_keeps_inv`. -/
theorem portEventsKeepInv : Obligations.PortEventsKeepInv := by
  intro e s s' inv runs
  cases e with
  | offer f => obtain rfl := Host.Outcome.next.inj runs; exact inv_offer f inv
  | take => obtain rfl := Host.Outcome.next.inj runs; exact inv_take inv
  | reset => obtain rfl := Host.Outcome.next.inj runs; exact inv_reset
  | run => exact step_keeps_inv inv runs

section Transactions

theorem cmdReady_iff_idle (s : State) : s.cmdReady = true ↔ s.idle := by
  simp [State.cmdReady, State.idle]

/-- Settles O23, from the rules for the three events. -/
theorem portHandshake : Obligations.PortHandshake := by
  refine ⟨fun s f idle => offer_idle f s idle.1 idle.2, fun s f busy => offer_busy f s ?not_ready,
    fun s => ⟨rfl, rfl⟩, fun s => rfl⟩
  case not_ready => rwa [← cmdReady_iff_idle, Bool.not_eq_true] at busy

/-- A transaction of an idle core with any parameter record: some state answers, and hands the answer
over (R34, R36). -/
theorem transactWith_eq_take (P : Params) {s : State} (f : Frame) (idle : s.idle) :
    ∃ u st p, stepWith P { s with cmd := some f } = .next (State.respond st p u) ∧
      transactWith P s f = (State.respond st p u).take := by
  obtain ⟨cmd, rsp⟩ := idle
  obtain ⟨u, st, p, runs, -⟩ := stepWith_responds P { s with cmd := some f } f rfl rsp
  refine ⟨u, st, p, runs, ?_⟩
  rw [transactWith, transactBy, offer_idle f s cmd rsp, runs]

theorem transact_eq_transactWith : transact = transactWith Config.device := by
  funext s f
  rw [transact, transactWith, step_eq_stepWith]

theorem transactAll_eq_transactAllWith : transactAll = transactAllWith Config.device := by
  funext s fs
  rw [transactAll, transactAllWith, step_eq_stepWith]

theorem transactWith_idle (P : Params) {s : State} (f : Frame) (idle : s.idle) :
    (transactWith P s f).1.idle := by
  obtain ⟨u, st, p, -, answered⟩ := transactWith_eq_take P f idle
  rw [answered]
  exact take_idle rfl

/-- Settles O21: the answered state is idle once its response is taken. -/
theorem transactionAnswersAndEndsIdle : Obligations.TransactionAnswersAndEndsIdle := by
  intro s f idle
  rw [transact_eq_transactWith]
  refine ⟨transactWith_idle _ f idle, ?_⟩
  obtain ⟨u, st, p, -, answered⟩ := transactWith_eq_take Config.device f idle
  rw [answered]
  rfl

/-- A step that answers an error moves no register: the frame was illegal or there was no session
(R158). -/
theorem stepWith_error_frame (P : Params) {s s' : State} {f : Frame} {r : Frame} (cmd : s.cmd = some f)
    (empty : s.rsp = none) (runs : stepWith P s = .next s') (rsp : s'.rsp = some r)
    (error : frameHead r ≠ okCode) : s' = { s with cmd := none, rsp := some r } := by
  obtain ⟨holds, -⟩ | ⟨-, -, -, ⟨-, ends⟩ | ⟨i, -, ends⟩⟩ := stepBy_cases (execWith P) s
  · simp [cmd, empty] at holds
  · obtain rfl := Host.Outcome.next.inj (ends.symm.trans runs)
    obtain rfl := Option.some.inj rsp
    rfl
  · exact execWith_error_frame P (ends.symm.trans runs) rsp error

/-- Once its response is taken, a core that moved no register is the idle core it was (R34). -/
theorem take_answered_idle {s : State} {r : Option Frame} (idle : s.idle) :
    ({ s with cmd := none, rsp := r } : State).take.1 = s := by
  obtain ⟨cmd, rsp⟩ := idle
  cases s
  subst cmd rsp
  rfl

/-- A transaction that does not report success leaves the idle core as it was (R158). -/
theorem transactWith_of_error (P : Params) {s : State} {f : Frame} (idle : s.idle)
    (error : respondsOk (transactWith P s f).2 = false) : (transactWith P s f).1 = s := by
  obtain ⟨u, st, p, runs, answered⟩ := transactWith_eq_take P f idle
  obtain ⟨cmd, rsp⟩ := idle
  rw [answered, take_rsp_out, respond_rsp, respondsOk_frameOf, beq_eq_false_iff_ne] at error
  have unmoved := stepWith_error_frame P (s := { s with cmd := some f }) rfl rsp runs
    (respond_rsp st p u) (by rwa [frameHead_frameOf])
  rw [answered, unmoved, take_answered_idle ⟨cmd, rsp⟩]

/-- One transaction, then the rest (R36). -/
theorem transactAllWith_cons (P : Params) (s : State) (f : Frame) (fs : List Frame) :
    transactAllWith P s (f :: fs) =
      ((transactAllWith P (transactWith P s f).1 fs).1,
        (transactWith P s f).2 :: (transactAllWith P (transactWith P s f).1 fs).2) := rfl

/-- The sequence without the failing frames: a failing first frame left the state, so it can go; a
succeeding one stays in front (R159). -/
theorem transactAllWith_filter_ok (P : Params) (fs : List Frame) {s : State} (idle : s.idle) :
    transactAllWith P s
        (((fs.zip (transactAllWith P s fs).2).filter fun p => respondsOk p.2).map Prod.fst)
      = ((transactAllWith P s fs).1,
          ((fs.zip (transactAllWith P s fs).2).filter fun p => respondsOk p.2).map Prod.snd) := by
  induction fs generalizing s with
  | nil => rfl
  | cons f fs ih =>
    have rest := ih (transactWith_idle P f idle)
    rw [transactAllWith_cons, List.zip_cons_cons]
    cases ok : respondsOk (transactWith P s f).2 with
    | true =>
      rw [List.filter_cons_of_pos (a := (f, _)) ok, List.map_cons, List.map_cons, transactAllWith_cons, rest]
    | false =>
      rw [List.filter_cons_of_neg (a := (f, _)) (by simp [ok])]
      rwa [transactWith_of_error P idle ok] at rest ⊢

/-- Settles O22, at the device's record. -/
theorem errorsLeaveNoTrace : Obligations.ErrorsLeaveNoTrace := by
  intro s fs idle
  rw [transactAll_eq_transactAllWith]
  exact transactAllWith_filter_ok Config.device fs idle

/-- A frame that decodes runs its command, and the host takes the answer (R34, R121). -/
theorem transactWith_of_decode (P : Params) {s s' : State} {f : Frame} {i : Instr} (idle : s.idle)
    (decodes : decode f = .ok i) (runs : execWith P i { s with cmd := some f } = .next s') :
    transactWith P s f = s'.take := by
  obtain ⟨cmd, rsp⟩ := idle
  have stepped : stepWith P (s.offer f) = .next s' := by
    rw [offer_idle f s cmd rsp, ← runs]
    exact stepBy_command (execWith P) _ f i rfl rsp decodes
  rw [transactWith, transactBy, stepped]

theorem decode_status_frame (p : Block) : decode (frameOf 0x00#8 p) = .ok .status := by
  simp [decode]

theorem decode_zeroize_frame (p : Block) : decode (frameOf 0x40#8 p) = .ok .zeroize := by
  simp [decode]

/-- Settles O29: neither command reads the frame it came in. -/
theorem ignoredPayloadsChangeNothing : Obligations.IgnoredPayloadsChangeNothing := by
  intro s p q idle
  rw [transact_eq_transactWith]
  refine ⟨?status, ?zeroize⟩
  case status =>
    rw [transactWith_of_decode _ idle (decode_status_frame p) (execWith_status _ _),
      transactWith_of_decode _ idle (decode_status_frame q) (execWith_status _ _)]
    simp only [respond_eq]
  case zeroize =>
    rw [transactWith_of_decode _ idle (decode_zeroize_frame p) (execWith_zeroize _ _),
      transactWith_of_decode _ idle (decode_zeroize_frame q) (execWith_zeroize _ _)]
    simp only [destroySession_eq, respond_eq]

end Transactions

end Sys2Proof.Machine
end

section
/-! PROOFS. Deciphering undoes enciphering (43_feistel_network.md section 4): one round undoes the other on
exchanged halves, so the rounds of one direction undo those of the other taken in reverse; and the two laws
of the decided layout (41_sbox_expand_reduce.md section 4). -/

namespace Sys2Proof.Machine

section Layout

/-- The high and the low half of a word, written one after the other (R87). -/
theorem append_halves (x : BitVec 32) :
    (x.extractLsb' 16 16 ++ x.extractLsb' 0 16 : BitVec 32) = x := by
  have whole := BitVec.extractLsb'_append_extractLsb'_eq_extractLsb' (x := x) (start₁ := 0) (len₁ := 16)
    (start₂ := 16) (len₂ := 16) rfl
  simpa using whole

theorem extractLsb'_append_high (x y : BitVec 16) : (x ++ y : BitVec 32).extractLsb' 16 16 = x := by
  rw [BitVec.extractLsb'_append_eq_of_le (by decide)]
  simp

theorem extractLsb'_append_low (x y : BitVec 16) : (x ++ y : BitVec 32).extractLsb' 0 16 = y := by
  rw [BitVec.extractLsb'_append_eq_of_add_le (by decide)]
  simp

/-- Words `2*j` and `2*j + 1` of a half are the two halves of word `first + j` (R87). -/
theorem pairWord_halfFrom (b : Block) (first j : Nat) (hj : j < 8) :
    pairWord (halfFrom b first) j = b[(first + j) % 16] := by
  have even : 2 * j % 16 % 2 = 0 ∧ 2 * j % 16 / 2 = j := by omega
  have odd : (2 * j + 1) % 16 % 2 = 1 ∧ (2 * j + 1) % 16 / 2 = j := by omega
  simp [pairWord, halfFrom, even, odd, append_halves]

/-- Word `i` of a half is read back from the Block word it went into (R88). -/
theorem halfFrom_eq_of_words {b : Block} {first : Nat} {h : Halfblock}
    (words : ∀ j < 8, b[(first + j) % 16] = pairWord h j) : halfFrom b first = h := by
  apply Vector.ext
  intro i hi
  rw [halfFrom, Vector.getElem_ofFn, words (i / 2) (by omega), pairWord]
  split
  case isTrue even =>
    have back : 2 * (i / 2) % 16 = i := by dsimp only at even; omega
    simp only [extractLsb'_append_high, back]
  case isFalse odd =>
    have back : (2 * (i / 2) + 1) % 16 = i := by dsimp only at odd; omega
    simp only [extractLsb'_append_low, back]

theorem getElem_combine (x y : Halfblock) (i : Nat) (hi : i < 16) :
    (combine x y)[i] = if i < 8 then pairWord x i else pairWord y (i - 8) := by
  simp [combine]

theorem combine_split (b : Block) : combine (split b).1 (split b).2 = b := by
  apply Vector.ext
  intro i hi
  rw [getElem_combine, split]
  split
  case isTrue first =>
    have back : (0 + i) % 16 = i := by omega
    simp only [pairWord_halfFrom b 0 i first, back]
  case isFalse second =>
    have back : (8 + (i - 8)) % 16 = i := by omega
    simp only [pairWord_halfFrom b 8 (i - 8) (by omega), back]

theorem split_combine (l r : Halfblock) : split (combine l r) = (l, r) := by
  refine Prod.ext (halfFrom_eq_of_words fun j hj => ?first) (halfFrom_eq_of_words fun j hj => ?second)
  case first =>
    have word : (0 + j) % 16 = j := by omega
    simp only [getElem_combine, word, hj, if_true]
  case second =>
    have word : (8 + j) % 16 = 8 + j := by omega
    have late : ¬ 8 + j < 8 := by omega
    have back : 8 + j - 8 = j := by omega
    simp only [getElem_combine, word, late, if_false, back]

end Layout

/-- Settles O44, from the two laws of R89 for the decided layout. -/
theorem splitAndCombineUndoEachOther : Obligations.SplitAndCombineUndoEachOther :=
  ⟨combine_split, split_combine⟩

section RoundsUndone

variable {w : Nat}

/-- The left half of each is the right half of the other; the scratch halves are free. -/
def Exchanged (h g : Halves w) : Prop := g.l = h.r ∧ g.r = h.l

/-- A decipher round takes the exchange of an encipher round's result to the exchange of its operand
(R102). -/
theorem exchanged_decRound (P : Params) {h g : Halves w} {k : Key} (ex : Exchanged (encRound P h k) g) :
    Exchanged h (decRound P g k) := by
  obtain ⟨left, right⟩ := ex
  have undone := decRound_encRound_swap P h k g.t
  rwa [← left, ← right] at undone

/-- And an encipher round undoes a decipher round: `F` is applied to the same half (R101, R102). -/
theorem exchanged_encRound (P : Params) {h g : Halves w} {k : Key} (ex : Exchanged (decRound P h k) g) :
    Exchanged h (encRound P g k) := by
  obtain ⟨left, right⟩ := ex
  rw [decRound_l] at right
  rw [decRound_r] at left
  refine ⟨?_, ?_⟩
  · rw [encRound_l, right, avalanche_unavalanche]
  · rw [encRound_r, right, left, blkXor_blkXor_cancel]

/-- Where `g` undoes `f` key by key, folding `g` over the keys in reverse undoes folding `f` (R100, R108). -/
theorem exchanged_foldl_reverse {f g : Halves w → Key → Halves w}
    (undoes : ∀ h h' k, Exchanged (f h k) h' → Exchanged h (g h' k)) (keys : List Key)
    {h h' : Halves w} (ex : Exchanged (keys.foldl f h) h') :
    Exchanged h (keys.reverse.foldl g h') := by
  induction keys generalizing h with
  | nil => exact ex
  | cons k keys ih =>
    rw [List.reverse_cons, List.foldl_append]
    exact undoes _ _ k (ih ex)

/-- A round in one direction undoes the round in the other (R101, R102). -/
theorem exchanged_halfRound (P : Params) {dir back : Direction} (opposite : dir ≠ back)
    (h h' : Halves w) (k : Key) (ex : Exchanged (halfRound P dir h k) h') :
    Exchanged h (halfRound P back h' k) := by
  cases dir with
  | encipher =>
    cases back with
    | encipher => exact absurd rfl opposite
    | decipher => exact exchanged_decRound P ex
  | decipher =>
    cases back with
    | encipher => exact exchanged_encRound P ex
    | decipher => exact absurd rfl opposite

/-- The two directions take the keys in opposite orders (R100). -/
theorem roundKeys_opposite (ks : Keyset) {dir back : Direction} (opposite : dir ≠ back) :
    roundKeys ks back = (roundKeys ks dir).reverse := by
  cases dir with
  | encipher =>
    cases back with
    | encipher => exact absurd rfl opposite
    | decipher => rfl
  | decipher =>
    cases back with
    | encipher => exact (List.reverse_reverse _).symm
    | decipher => exact absurd rfl opposite

/-- The rounds of one direction undo those of the other, on exchanged halves (R108). -/
theorem exchanged_rounds (P : Params) (ks : Keyset) {dir back : Direction} (opposite : dir ≠ back)
    {h h' : Halves w} (ex : Exchanged (rounds P ks dir h) h') :
    Exchanged h (rounds P ks back h') := by
  rw [rounds, roundKeys_opposite ks opposite]
  exact exchanged_foldl_reverse (exchanged_halfRound P opposite) (roundKeys ks dir) ex

/-- The swapped recombination loads as the exchanged halves (R107). -/
theorem exchanged_loadHalves (P : Params) (swap : P.finalSwap = true) (lawful : P.splitLayout.lawful)
    (h : Halves P.halfWordBits) : Exchanged h (loadHalves P (combineHalves P h)) := by
  obtain ⟨-, split_combine⟩ := lawful
  rw [combineHalves, if_pos swap, loadHalves, split_combine]
  exact ⟨rfl, rfl⟩

/-- Exchanged with a loaded Block's halves, the recombination gives the Block (R107). -/
theorem combineHalves_of_exchanged (P : Params) (swap : P.finalSwap = true)
    (lawful : P.splitLayout.lawful) {b : Block} {h : Halves P.halfWordBits}
    (ex : Exchanged (loadHalves P b) h) : combineHalves P h = b := by
  obtain ⟨left, right⟩ := ex
  obtain ⟨combine_split, -⟩ := lawful
  rw [combineHalves, if_pos swap, left, right]
  exact combine_split b

/-- `Run` in one direction after `Run` in the other, on one keyset (R108). -/
theorem run_run (P : Params) (swap : P.finalSwap = true) (lawful : P.splitLayout.lawful) (ks : Keyset)
    (b : Block) {dir back : Direction} (opposite : dir ≠ back) :
    (run P ks (run P ks b dir).1 back).1 = b :=
  combineHalves_of_exchanged P swap lawful
    (exchanged_rounds P ks opposite (exchanged_loadHalves P swap lawful _))

end RoundsUndone

/-- Settles O52, from `run_run` in both directions. -/
theorem runRoundTrip : Obligations.RunRoundTrip := fun P ks b swap lawful =>
  ⟨run_run P swap lawful ks b (by decide), run_run P swap lawful ks b (by decide),
    run_keyset P ks b .encipher, run_keyset P ks b .decipher⟩

end Sys2Proof.Machine
end

section
/-! PROOFS. Sessions of ChainedCipher as functions of the keyset and `LAST` (44_chained_cipher_commands.md
section 3): a core in a session answers the `DIGEST`s of a block list with `digestStream`, for every
parameter record; the statements about messages are then statements about that list function. -/

namespace Sys2Proof.Machine

/-- An idle core in a live session: what its later answers depend on. -/
structure State.InSession (dir : Direction) (ks : Keyset) (last : Block) (s : State) : Prop where
  idle : s.idle
  live : s.live = true
  dir_eq : s.dir = dir
  ks_eq : s.ks = ks
  last_eq : s.last = last

/-- The block a `DIGEST` returns, beside the `LAST` it leaves (R114, R115). -/
def digestResult (P : Params) (dir : Direction) (ks : Keyset) (last b : Block) : Block × Block :=
  match dir with
  | .encipher => ((run P ks (blkXor b last) .encipher).1, (run P ks (blkXor b last) .encipher).1)
  | .decipher => (blkXor (run P ks b .decipher).1 last, b)

/-- The blocks a session returns for a list of blocks, its keyset ratcheted after each (R93, R113). -/
def digestStream (P : Params) (dir : Direction) : Keyset → Block → List Block → List Block
  | _, _, [] => []
  | ks, last, b :: bs =>
    (digestResult P dir ks last b).1 ::
      digestStream P dir (keySchedule P ks[63]) (digestResult P dir ks last b).2 bs

/-- The keyset a session starts with: where the IV is derived on the session's own network, that network
has been ratcheted once (R111, R112). -/
def initKeyset (P : Params) (key : Key) : Keyset :=
  if P.ivTempNetwork then keySchedule P key else (run P (keySchedule P key) key .encipher).2

section Streams

variable (P : Params)

theorem digestByDir_eq_digestResult (b : Block) (s : State) :
    (digestByDir P b s).2 = (digestResult P s.dir s.ks s.last b).1 ∧
    (digestByDir P b s).1.last = (digestResult P s.dir s.ks s.last b).2 := by
  cases direction : s.dir with
  | encipher =>
    rw [digestByDir_encipher P b s direction]
    exact ⟨digestEncipher_out P b s, digestEncipher_last P b s⟩
  | decipher =>
    rw [digestByDir_decipher P b s direction]
    exact ⟨digestDecipher_out P b s, digestDecipher_last P b s⟩

/-- Whatever the core, `INIT` starts a session from the key and the direction (R111, R112). -/
theorem initSession_fields (dir : Direction) (key : Key) (s : State) :
    (initSession P dir key s).ks = initKeyset P key ∧ (initSession P dir key s).last = ivOf P key := by
  rw [initSession, initKeyset]
  cases temp : P.ivTempNetwork with
  | true => rw [deriveIv_temp P temp]; exact ⟨rfl, rfl⟩
  | false => rw [deriveIv_session P temp]; exact ⟨rfl, rfl⟩

theorem transactWith_encode {s s' : State} {i : Instr} (idle : s.idle)
    (runs : execWith P i { s with cmd := some (encode i) } = .next s') :
    transactWith P s (encode i) = s'.take :=
  transactWith_of_decode P idle (decode_encode i) runs

theorem inSession_init (dir : Direction) (key : Key) {s : State} (idle : s.idle) :
    (transactWith P s (encode (initOf dir key))).1.InSession dir (initKeyset P key) (ivOf P key) := by
  rw [transactWith_encode P idle (execWith_initOf P _ dir key)]
  obtain ⟨ks, last⟩ := initSession_fields P dir key { s with cmd := some (encode (initOf dir key)) }
  exact ⟨take_idle rfl, rfl, rfl, ks, last⟩

/-- What the host finds once it has taken the answer to a live `DIGEST` (R93, R113). -/
theorem inSession_take_digest (b : Block) {s : State} (live : s.live = true) :
    ((digestByDir P b s).1.clearTransients.respond okCode (digestByDir P b s).2).take.1.InSession s.dir
      (keySchedule P s.ks[63]) (digestResult P s.dir s.ks s.last b).2 ∧
    responseBlock ((digestByDir P b s).1.clearTransients.respond okCode (digestByDir P b s).2).take.2
      = (digestResult P s.dir s.ks s.last b).1 := by
  obtain ⟨out, last⟩ := digestByDir_eq_digestResult P b s
  refine ⟨⟨take_idle rfl, (digestByDir_live P b s).trans live, digestByDir_dir P b s,
    digestByDir_ks P b s, last⟩, ?response⟩
  case response =>
    rw [take_rsp_out, respond_rsp, responseBlock, Option.map_some, Option.getD_some,
      framePayload_frameOf, out]

/-- One `DIGEST` in a session: the block returned and the session it leaves (R93, R114, R115). -/
theorem inSession_digest (b : Block) {dir : Direction} {ks : Keyset} {last : Block} {s : State}
    (session : s.InSession dir ks last) :
    (transactWith P s (encode (.digest b))).1.InSession dir (keySchedule P ks[63])
      (digestResult P dir ks last b).2 ∧
    responseBlock (transactWith P s (encode (.digest b))).2 = (digestResult P dir ks last b).1 := by
  obtain ⟨idle, live, rfl, rfl, rfl⟩ := session
  rw [transactWith_encode P idle (execWith_digest_of_live P _ b live)]
  exact inSession_take_digest P b (s := { s with cmd := some (encode (.digest b)) }) live

/-- A session's answers to the `DIGEST`s of a block list (R113). -/
theorem responseBlocks_digestFrames (blocks : List Block) {dir : Direction} {ks : Keyset} {last : Block}
    {s : State} (session : s.InSession dir ks last) :
    (transactAllWith P s (digestFrames blocks)).2.map responseBlock = digestStream P dir ks last blocks := by
  induction blocks generalizing ks last s with
  | nil => rfl
  | cons b blocks ih =>
    obtain ⟨session', out⟩ := inSession_digest P b session
    rw [digestFrames, List.map_cons, transactAllWith_cons, List.map_cons, out, digestStream]
    exact congrArg _ (ih session')

/-- A message through a fresh session, from any idle core. -/
theorem messageOutputsWith_eq_digestStream (dir : Direction) (key : Key) (blocks : List Block) {s : State}
    (idle : s.idle) :
    messageOutputsWith P dir key blocks s
      = digestStream P dir (initKeyset P key) (ivOf P key) blocks :=
  responseBlocks_digestFrames P blocks (inSession_init P dir key idle)

/-- Deciphering a stream block by block: `Run` is undone, the exclusive or cancels, and both sessions keep
the ciphertext as `LAST` (R116). -/
theorem digestStream_decipher_encipher (swap : P.finalSwap = true) (lawful : P.splitLayout.lawful)
    (ks : Keyset) (last : Block) (blocks : List Block) :
    digestStream P .decipher ks last (digestStream P .encipher ks last blocks) = blocks := by
  induction blocks generalizing ks last with
  | nil => rfl
  | cons b blocks ih =>
    simp only [digestStream, digestResult]
    rw [ih, run_run P swap lawful ks _ (by decide), blkXor_blkXor_cancel]

end Streams

/-- Settles O60: both messages are streams from one keyset and one `LAST`. -/
theorem messageRoundTripForEveryRecord : Obligations.MessageRoundTripForEveryRecord := by
  intro P key blocks s t swap lawful s_idle t_idle
  rw [messageOutputsWith_eq_digestStream P .encipher key blocks s_idle,
    messageOutputsWith_eq_digestStream P .decipher key _ t_idle,
    digestStream_decipher_encipher P swap lawful]

theorem messageOutputs_eq_digestStream (dir : Direction) (key : Key) (blocks : List Block) {s : State}
    (idle : s.idle) :
    messageOutputs dir key blocks s
      = digestStream Config.device dir (initKeyset Config.device key) (ivOf Config.device key) blocks := by
  rw [← messageOutputsWith_eq_digestStream Config.device dir key blocks idle, messageOutputs,
    digestOutputs, sessionStart, transact_eq_transactWith, transactAll_eq_transactAllWith,
    messageOutputsWith]

/-- Settles O54: the device's layout is lawful and its halves are recombined swapped. -/
theorem messageRoundTrip : Obligations.MessageRoundTrip := by
  intro key blocks s t s_idle t_idle
  rw [messageOutputs_eq_digestStream .encipher key blocks s_idle,
    messageOutputs_eq_digestStream .decipher key _ t_idle,
    digestStream_decipher_encipher Config.device rfl splitAndCombineUndoEachOther]

/-- Settles O53, from the keyset after a list of `DIGEST` frames. -/
theorem keysetIgnoresTheData : Obligations.KeysetIgnoresTheData :=
  fun _ blocks idle live => transactAll_digestFrames_ks blocks idle live

section Chaining

/-- Different blocks have different ciphertexts under one keyset and one `LAST` (R108). -/
theorem digestResult_encipher_injective (P : Params) (swap : P.finalSwap = true)
    (lawful : P.splitLayout.lawful) (ks : Keyset) (last : Block) {x y : Block}
    (same : (digestResult P .encipher ks last x).1 = (digestResult P .encipher ks last y).1) : x = y := by
  have same_run : (run P ks (blkXor x last) .encipher).1 = (run P ks (blkXor y last) .encipher).1 := same
  have same_xor : blkXor x last = blkXor y last := by
    rw [← run_run P swap lawful ks (blkXor x last) (dir := .encipher) (back := .decipher) (by decide),
      same_run, run_run P swap lawful ks _ (by decide)]
  rw [← blkXor_blkXor_cancel x last, same_xor, blkXor_blkXor_cancel]

/-- Up to the common blocks the answers are equal, whatever the direction. -/
theorem take_digestStream_append (P : Params) (dir : Direction) (ks : Keyset) (last : Block)
    (common u v : List Block) :
    (digestStream P dir ks last (common ++ u)).take common.length
      = (digestStream P dir ks last (common ++ v)).take common.length := by
  induction common generalizing ks last with
  | nil => rfl
  | cons b common ih =>
    rw [List.cons_append, List.cons_append, digestStream, digestStream, List.length_cons,
      List.take_succ_cons, List.take_succ_cons, ih]

/-- After the common blocks both sessions hold one keyset and one `LAST`, so the first differing block has
different ciphertexts (R118). -/
theorem getElem?_digestStream_ne (P : Params) (swap : P.finalSwap = true) (lawful : P.splitLayout.lawful)
    (ks : Keyset) (last : Block) (common rest rest' : List Block) {x y : Block} (differ : x ≠ y) :
    (digestStream P .encipher ks last (common ++ x :: rest))[common.length]?
      ≠ (digestStream P .encipher ks last (common ++ y :: rest'))[common.length]? := by
  induction common generalizing ks last with
  | nil =>
    intro same
    exact differ (digestResult_encipher_injective P swap lawful ks last (Option.some.inj same))
  | cons b common ih => exact ih _ _

end Chaining

/-- Settles O55, from the stream's two facts at the device's record. -/
theorem ciphertextChains : Obligations.CiphertextChains := by
  intro key s common rest rest' x y idle differ
  simp only [messageOutputs_eq_digestStream .encipher key _ idle]
  exact ⟨take_digestStream_append _ _ _ _ common _ _,
    getElem?_digestStream_ne Config.device rfl splitAndCombineUndoEachOther _ _ common rest rest' differ⟩

section Confinement

variable (P : Params)

/-- In the Decipher direction `LAST` is read by the next block only, which replaces it (R115). -/
theorem getElem?_digestStream_decipher_last (ks : Keyset) (last last' : Block) (blocks : List Block)
    {k : Nat} (later : k ≠ 0) :
    (digestStream P .decipher ks last blocks)[k]? = (digestStream P .decipher ks last' blocks)[k]? := by
  obtain ⟨j, rfl⟩ := Nat.exists_eq_succ_of_ne_zero later
  cases blocks with
  | nil => rfl
  | cons b blocks => rfl

/-- An altered block changes its own cleartext and, through `LAST`, the next one (R118). -/
theorem getElem?_digestStream_decipher_altered (ks : Keyset) (last : Block) (front rest : List Block)
    (x y : Block) {k : Nat} (own : k ≠ front.length) (next : k ≠ front.length + 1) :
    (digestStream P .decipher ks last (front ++ x :: rest))[k]?
      = (digestStream P .decipher ks last (front ++ y :: rest))[k]? := by
  induction front generalizing ks last k with
  | nil =>
    obtain ⟨j, rfl⟩ := Nat.exists_eq_succ_of_ne_zero own
    exact getElem?_digestStream_decipher_last P _ x y rest fun first => next (congrArg _ first)
  | cons b front ih =>
    cases k with
    | zero => rfl
    | succ k => exact ih _ _ (fun h => own (congrArg _ h)) fun h => next (congrArg _ h)

end Confinement

/-- Settles O56, at the device's record. -/
theorem alteredCiphertextIsConfined : Obligations.AlteredCiphertextIsConfined := by
  intro key s front rest x y idle
  simp only [messageOutputs_eq_digestStream .decipher key _ idle]
  intro k own next
  exact getElem?_digestStream_decipher_altered Config.device _ _ front rest x y own next

section Hash

/-- `REKEY` in a session replaces the keyset and keeps the rest of it (R117; D19). -/
theorem inSession_rekey (P : Params) (keeps : P.rekeyKeepsLast = true) (key : Key) {dir : Direction}
    {ks : Keyset} {last : Block} {s : State} (session : s.InSession dir ks last) :
    (transactWith P s (encode (.rekey key))).1.InSession dir (keySchedule P key) last := by
  obtain ⟨idle, live, rfl, rfl, rfl⟩ := session
  rw [transactWith_encode P idle (execWith_rekey_of_live P _ key keeps live)]
  exact ⟨take_idle rfl, live, rfl, rfl, rfl⟩

/-- The response of a `command` is the payload of its transaction's response. -/
theorem command_eq (i : Instr) (s : State) :
    command i s = ((transactWith Config.device s (encode i)).1,
      responseBlock (transactWith Config.device s (encode i)).2) := by
  rw [← transact_eq_transactWith]
  rfl

end Hash

/-- Settles O57: `REKEY` then `DIGEST` on a session, the data as key and as block. -/
theorem hashBlockUsesTheDataAsKey : Obligations.HashBlockUsesTheDataAsKey := by
  intro data k idle live enciphers
  have rekeyed := inSession_rekey Config.device rfl data (s := k.core) ⟨idle, live, enciphers, rfl, rfl⟩
  obtain ⟨⟨idle', live', dir', ks', last'⟩, out⟩ := inSession_digest Config.device data rekeyed
  simp only [hashDigestBlock, command_eq]
  exact ⟨congrArg _ out, last', ks', idle', live', dir'⟩

end Sys2Proof.Machine
end

section
/-! PROOFS. The encoding of 30_encoding.md: decode and encode undo each other, the six control bytes, and
which byte sequences are frames. -/

namespace Sys2Proof.Machine

/-- Settles O24: every operand stands in the payload, which the frame gives back. -/
theorem decodeUndoesEncode : Obligations.DecodeUndoesEncode := fun i _ => decode_encode i

/-- What a frame that decodes spells: its control byte, and its payload where the command has one (R44). -/
theorem eq_of_decode_ok {f : Frame} {i : Instr} (decodes : decode f = .ok i) :
    frameHead f = ctlOf i ∧ (i = .status ∨ i = .zeroize ∨ framePayload f = payloadOf i) := by
  simp only [decode] at decodes
  split_ifs at decodes with status initE initD digest rekey zeroize
  all_goals obtain rfl := Except.ok.inj decodes
  · exact ⟨status, .inl rfl⟩
  · exact ⟨initE, .inr (.inr rfl)⟩
  · exact ⟨initD, .inr (.inr rfl)⟩
  · exact ⟨digest, .inr (.inr rfl)⟩
  · exact ⟨rekey, .inr (.inr rfl)⟩
  · exact ⟨zeroize, .inr (.inl rfl)⟩

/-- Settles O25: a frame is built from its head and payload, and two commands have a zero payload. -/
theorem encodeUndoesDecode : Obligations.EncodeUndoesDecode := by
  intro f i decodes
  obtain ⟨head, payload⟩ := eq_of_decode_ok decodes
  rw [encode, head]
  split
  case isTrue ignored => obtain rfl | rfl := ignored <;> rfl
  case isFalse takes =>
    obtain rfl | rfl | payload := payload
    · exact absurd (.inl rfl) takes
    · exact absurd (.inr rfl) takes
    · rw [← head, ← payload, frameOf_head_payload]

/-- A frame decodes exactly when its control byte is one of the six (R44, R46). -/
theorem decode_isOk_iff (f : Frame) :
    (∃ i, decode f = .ok i) ↔ frameHead f ∈ [0x00#8, 0x10#8, 0x11#8, 0x20#8, 0x30#8, 0x40#8] := by
  constructor
  case mp =>
    rintro ⟨i, decodes⟩
    obtain ⟨head, -⟩ := eq_of_decode_ok decodes
    rw [head]
    cases i <;> simp [ctlOf]
  case mpr =>
    intro known
    simp only [List.mem_cons, List.not_mem_nil, or_false] at known
    obtain h | h | h | h | h | h := known <;> simp [decode, h]

/-- The fields of a control byte as places of its number (R43). -/
theorem toNat_ctlFields (c : Byte) :
    (ctlFields c).op.toNat = c.toNat / 16 ∧ (ctlFields c).rsv.toNat = c.toNat / 2 % 8 ∧
      (ctlFields c).d.toNat = c.toNat % 2 := by
  have byte := c.isLt
  simp only [ctlFields, BitVec.extractLsb'_toNat, Nat.shiftRight_eq_div_pow]
  refine ⟨?_, trivial, ?_⟩ <;> omega

/-- The three field checks accept the six control bytes and no other (R43, R44, R46). -/
theorem wf_ctlFields_iff (c : Byte) :
    (ctlFields c).wf = true ↔ c ∈ [0x00#8, 0x10#8, 0x11#8, 0x20#8, 0x30#8, 0x40#8] := by
  obtain ⟨op, rsv, d⟩ := toNat_ctlFields c
  simp only [CtlFields.wf, CtlFields.opOk, CtlFields.rsvOk, CtlFields.dirOk, Bool.and_eq_true,
    Bool.or_eq_true, decide_eq_true_eq, beq_iff_eq, ← BitVec.toNat_inj, op, rsv, d, List.mem_cons,
    List.not_mem_nil, or_false, BitVec.toNat_ofNat, BitVec.ofNat_eq_ofNat]
  omega

/-- Settles O26, by the six control bytes. -/
theorem decodesExactlySixControlBytes : Obligations.DecodesExactlySixControlBytes := fun f =>
  ⟨decode_isOk_iff f, (decode_isOk_iff f).trans (wf_ctlFields_iff (frameHead f)).symm⟩

theorem decodeBytes_of_length_ne {bs : List Byte} (length : bs.length ≠ 65) :
    decodeBytes bs = .error (.frameLength bs.length) := by
  rw [decodeBytes, frameOfBytes, dif_neg length]

theorem frameOfBytes_toList (f : Frame) : frameOfBytes f.toList = some f := by
  rw [frameOfBytes, dif_pos f.length_toList]
  rfl

/-- Settles O27. -/
theorem onlyWholeFramesDecode : Obligations.OnlyWholeFramesDecode :=
  ⟨fun _ => decodeBytes_of_length_ne, fun f => by rw [decodeBytes, frameOfBytes_toList]⟩

/-- The bytes of a frame are its head and then the byte form of its payload (R27, R41). -/
theorem toList_frameOf (head : Byte) (pay : Block) : (frameOf head pay).toList = head :: bytes pay := by
  apply List.ext_getElem?'
  intro j hj
  rw [List.length_cons, Vector.length_toList, length_bytes] at hj
  cases j with
  | zero => simp [frameOf]
  | succ j =>
    have word : j / 4 < 16 := by omega
    have byte : j % 4 < 4 := Nat.mod_lt j (by decide)
    have place : 1 + 4 * (j / 4) + j % 4 = j + 1 := by omega
    have frame_byte := getElem_frameOf head pay (j / 4) (j % 4) word byte
    simp only [place] at frame_byte
    have block_byte : (bytes pay)[4 * (j / 4) + j % 4]? = _ := getElem?_bytes pay word byte
    rw [Nat.div_add_mod] at block_byte
    rw [List.getElem?_cons_succ, block_byte, Vector.getElem?_toList, Vector.getElem?_eq_getElem (by omega),
      frame_byte]

/-- A written-out frame is its control byte and 64 bytes of payload (R41). -/
theorem decodeBytes_cons (ctl : Byte) {pay : List Byte} (whole : pay.length = 64) :
    decodeBytes (ctl :: pay) = decode (frameOf ctl (blockOfBytes pay)) := by
  have payload : bytes (blockOfBytes pay) = pay := by
    rw [bytes_blockOfBytes, whole, Nat.sub_self, List.replicate_zero, List.append_nil,
      List.take_of_length_le whole.le]
  rw [decodeBytes, ← payload, ← toList_frameOf, frameOfBytes_toList]
  simp only [payload]

/-- So a control byte and 64 bytes of operand decode to the command they spell (R42, R44). -/
theorem decodeBytes_of_operand (i : Instr) {pay : List Byte} (whole : pay.length = 64)
    (operand : blockOfBytes pay = payloadOf i) : decodeBytes (ctlOf i :: pay) = .ok i := by
  rw [decodeBytes_cons _ whole, operand]
  exact decode_encode i

/-- Settles O28: the four operands are read from their bytes, the two ignored payloads are not. -/
theorem writtenOutFramesDecode : Obligations.WrittenOutFramesDecode := by
  refine ⟨?status, decodeBytes_of_operand (.initE _) (by simp) (by decide +kernel),
    decodeBytes_of_operand (.initD _) (by simp) (by decide +kernel),
    decodeBytes_of_operand (.digest _) (by simp) (by decide +kernel),
    decodeBytes_of_operand (.rekey _) (by simp) (by decide +kernel), ?zeroize⟩
  case status => rw [decodeBytes_cons _ (by simp), decode_status_frame]
  case zeroize => rw [decodeBytes_cons _ (by simp), decode_zeroize_frame]

section Numerals

/-- Base-256 numeral of 65 bytes as a numeral of `BitVec 8` words. -/
theorem toNat_frameBits (f : Frame) :
    (frameBits f).toNat = f.toList.foldl (fun n b => n * 2 ^ 8 + b.toNat) 0 := by
  have small := foldl_numeral_lt f.toList
  simp only [Vector.length_toList, Nat.reduceMul] at small
  rw [frameBits, BitVec.toNat_ofNat]
  change f.toList.foldl (fun n b => n * 2 ^ 8 + b.toNat) 0 % 2 ^ 520 = _
  exact Nat.mod_eq_of_lt small

/-- Bit `8*(64-k) + j` of the frame's bits is bit `j` of byte `k` (R41). -/
theorem getLsbD_frameBits (f : Frame) {k j : Nat} (hk : k < 65) (hj : j < 8) :
    (frameBits f).getLsbD (8 * (64 - k) + j) = f[k].getLsbD j := by
  have place : f.toList.length - 1 - (64 - k) = k := by rw [Vector.length_toList]; omega
  rw [← BitVec.testBit_toNat, toNat_frameBits,
    testBit_numeral f.toList (64 - k) j hj (by rw [Vector.length_toList]; omega)]
  simp only [place, Vector.getElem_toList]

theorem extractLsb'_frameBits_byte (f : Frame) {k : Nat} (hk : k < 65) :
    (frameBits f).extractLsb' (512 - 8 * k) 8 = f[k] := by
  apply BitVec.eq_of_getLsbD_eq
  intro j hj
  have place : 512 - 8 * k + j = 8 * (64 - k) + j := by omega
  rw [BitVec.getLsbD_extractLsb', decide_eq_true hj, Bool.true_and, place, getLsbD_frameBits f hk hj]

/-- Byte `k` of a word cut out of a value is the value's byte at that place. -/
theorem wordByte_extractLsb' {m : Nat} (x : BitVec m) (start : Nat) {k : Nat} (hk : k < 4) :
    wordByte (x.extractLsb' start 32) k = x.extractLsb' (start + (24 - 8 * k)) 8 := by
  apply BitVec.eq_of_getLsbD_eq
  intro j hj
  have inside : 32 - 8 - 8 * k + j < 32 := by omega
  have place : start + (32 - 8 - 8 * k + j) = start + (24 - 8 * k) + j := by omega
  simp only [wordByte, BitVec.getLsbD_extractLsb', hj, inside, place, decide_true, Bool.true_and]

/-- Word `i` of the payload is the four bytes from `1 + 4*i` on, most significant first (R41). -/
theorem getElem_framePayload (f : Frame) {i : Nat} (hi : i < 16) :
    (framePayload f)[i] = (frameBits f).extractLsb' (480 - 32 * i) 32 := by
  have byte : ∀ k (hk : k < 4),
      f[1 + 4 * i + k] = wordByte ((frameBits f).extractLsb' (480 - 32 * i) 32) k := by
    intro k hk
    have place : 480 - 32 * i + (24 - 8 * k) = 512 - 8 * (1 + 4 * i + k) := by omega
    rw [wordByte_extractLsb' _ _ hk, place, extractLsb'_frameBits_byte f (by omega)]
  have bytes := wordByte_append ((frameBits f).extractLsb' (480 - 32 * i) 32)
  rw [← byte 0 (by decide), ← byte 1 (by decide), ← byte 2 (by decide), ← byte 3 (by decide)] at bytes
  have place2 : 2 + 4 * i = 1 + 4 * i + 1 := by omega
  have place3 : 3 + 4 * i = 1 + 4 * i + 2 := by omega
  have place4 : 4 + 4 * i = 1 + 4 * i + 3 := by omega
  rw [framePayload, Vector.getElem_ofFn, ← bytes]
  simp only [Nat.add_zero, place2, place3, place4]

/-- The payload is the low 512 bits of the frame, word by word (R41). -/
theorem framePayload_eq_fromNum (f : Frame) :
    framePayload f = fromNum ((frameBits f).extractLsb' 0 (16 * 32)) := by
  apply Vector.ext
  intro i hi
  rw [getElem_framePayload f hi, getElem_fromNum]
  apply BitVec.eq_of_getLsbD_eq
  intro j hj
  have inside : 32 * (15 - i) + j < 16 * 32 := by omega
  have place : 480 - 32 * i + j = 0 + (32 * (15 - i) + j) := by omega
  simp only [BitVec.getLsbD_extractLsb', hj, inside, place, decide_true, Bool.true_and]

end Numerals

/-- Settles O30: bytes, words and the whole payload as places of the frame's numeral. -/
theorem frameBitsHoldTheFields : Obligations.FrameBitsHoldTheFields := by
  intro f
  refine ⟨fun k hk => (extractLsb'_frameBits_byte f hk).symm,
    (extractLsb'_frameBits_byte f (k := 0) (by decide)).symm, fun i hi => getElem_framePayload f hi, ?_⟩
  rw [framePayload_eq_fromNum, num_fromNum]

end Sys2Proof.Machine
end

section
/-! PROOFS. The serialised forms of 20_memory.md section 2: their lengths and numerals (R26 to R29), the
construction from a string (R31), the split as the binary string cut in the middle (R87), the substitution
on the byte string (R81), and a stream cut into blocks (R179). -/

namespace Sys2Proof.Machine

section Digits

/-- The `k` most significant of `m` digits of `x` to the base `2^d`, read one after the other behind `n`. -/
theorem foldl_digits (d m x n : Nat) (small : x < 2 ^ (d * m)) {k : Nat} (hk : k ≤ m) :
    (List.range k).foldl (fun a j => a * 2 ^ d + x / 2 ^ (d * (m - 1 - j)) % 2 ^ d) n
      = n * 2 ^ (d * k) + x / 2 ^ (d * (m - k)) := by
  induction k with
  | zero => simp [Nat.div_eq_of_lt small]
  | succ k ih =>
    have earlier : x / 2 ^ (d * (m - k)) = x / 2 ^ (d * (m - (k + 1))) / 2 ^ d := by
      have power : d * (m - k) = d * (m - (k + 1)) + d := by
        have one_more : m - k = m - (k + 1) + 1 := by omega
        rw [one_more, Nat.mul_succ]
      rw [Nat.div_div_eq_div_mul, power, Nat.pow_add]
    have place : m - 1 - k = m - (k + 1) := by omega
    have digits := Nat.div_add_mod' (x / 2 ^ (d * (m - (k + 1)))) (2 ^ d)
    rw [List.range_succ, List.foldl_append, ih (by omega), List.foldl_cons, List.foldl_nil, earlier, place,
      Nat.add_mul, Nat.add_assoc, digits, Nat.mul_succ, Nat.pow_add, Nat.mul_assoc]

/-- All `m` digits of `x` behind `n`. -/
theorem foldl_all_digits (d m x n : Nat) (small : x < 2 ^ (d * m)) :
    (List.range m).foldl (fun a j => a * 2 ^ d + x / 2 ^ (d * (m - 1 - j)) % 2 ^ d) n
      = n * 2 ^ (d * m) + x := by
  rw [foldl_digits d m x n small le_rfl]
  simp

variable {w : Nat}

/-- Where the digits of each word read as the word, the digits of a value read as its `Num` (R26 to R28). -/
theorem foldl_flatMap_eq_numNat {α : Type} {digits : BitVec w → List α} {g : Nat → α → Nat}
    (word : ∀ n x, (digits x).foldl g n = n * 2 ^ w + x.toNat) (b : Blk w) :
    (b.toList.flatMap digits).foldl g 0 = numNat b := by
  rw [List.foldl_flatMap, numNat]
  exact List.foldl_ext _ _ _ fun n x _ => word n x

theorem foldl_wordBin (n : Nat) (x : BitVec w) :
    (wordBin x).foldl (fun n c => 2 * n + if c = '1' then 1 else 0) n = n * 2 ^ w + x.toNat := by
  have all := foldl_all_digits 1 w x.toNat n (by simpa using x.isLt)
  rw [Nat.one_mul] at all
  rw [← all, wordBin, List.foldl_map]
  refine List.foldl_ext _ _ _ fun a j _ => ?_
  rw [Nat.one_mul, Nat.pow_one, Nat.mul_comm 2 a, BitVec.getLsbD, ← Nat.toNat_testBit]
  cases x.toNat.testBit (w - 1 - j) <;> rfl

theorem foldl_wordBytes (n : Nat) (x : BitVec 32) :
    ((List.range (32 / 8)).map (wordByte x)).foldl (fun n y => n * 256 + y.toNat) n
      = n * 2 ^ 32 + x.toNat := by
  rw [← foldl_all_digits 8 4 x.toNat n x.isLt, List.foldl_map]
  refine List.foldl_ext _ _ _ fun a j hj => ?_
  have place : 32 - 8 - 8 * j = 8 * (4 - 1 - j) := by omega
  rw [wordByte, BitVec.extractLsb'_toNat, Nat.shiftRight_eq_div_pow, place]
  rfl

theorem idxOf_hexDigit : ∀ n : BitVec 4, "0123456789abcdef".toList.idxOf (hexDigit n) = n.toNat := by
  decide

theorem foldl_wordHex (n : Nat) (x : BitVec 32) :
    ((List.range (32 / 4)).map fun j => hexDigit (x.extractLsb' (32 - 4 - 4 * j) 4)).foldl
      (fun n c => n * 16 + "0123456789abcdef".toList.idxOf c) n = n * 2 ^ 32 + x.toNat := by
  rw [← foldl_all_digits 4 8 x.toNat n x.isLt, List.foldl_map]
  refine List.foldl_ext _ _ _ fun a j hj => ?_
  have place : 32 - 4 - 4 * j = 4 * (8 - 1 - j) := by omega
  rw [idxOf_hexDigit, BitVec.extractLsb'_toNat, Nat.shiftRight_eq_div_pow, place]
  rfl

theorem length_wordBin (x : BitVec w) : (wordBin x).length = w := by
  rw [wordBin, List.length_map, List.length_range]

theorem length_bin (b : Blk w) : (bin b).length = 16 * w := by
  simp only [bin, List.length_flatMap, length_wordBin, List.map_const', List.sum_replicate,
    Vector.length_toList, smul_eq_mul]

theorem length_hex (b : Blk w) : (hex b).length = 16 * (w / 4) := by
  simp only [hex, List.length_flatMap, List.length_map, List.length_range, List.map_const',
    List.sum_replicate, Vector.length_toList, smul_eq_mul]

theorem binNumeral_bin (b : Blk w) : binNumeral (bin b) = numNat b :=
  foldl_flatMap_eq_numNat foldl_wordBin b

end Digits

/-- Settles O31: the digits of each word read as the word, in each of the three bases. -/
theorem serialFormsAreNumerals : Obligations.SerialFormsAreNumerals := fun b =>
  ⟨length_bin b, binNumeral_bin b, length_bytes b, foldl_flatMap_eq_numNat foldl_wordBytes b,
    length_hex b, foldl_flatMap_eq_numNat foldl_wordHex b⟩

/-- Settles O32: a full string is its own first 64 bytes, and needs no padding. -/
theorem byteFormIsABijection : Obligations.ByteFormIsABijection := by
  refine ⟨blockOfBytes_bytes, fun bs length => ?_⟩
  rw [bytes_blockOfBytes, length, Nat.sub_self, List.replicate_zero, List.append_nil,
    List.take_of_length_le length.le]

section BinaryString

variable {w : Nat}

/-- Character `w*i + k` of the binary form is bit `w - 1 - k` of word `i` (R26). -/
theorem getElem?_bin (b : Blk w) {i k : Nat} (hi : i < 16) (hk : k < w) :
    (bin b)[w * i + k]? = some (if b[i].getLsbD (w - 1 - k) then '1' else '0') := by
  rw [bin, getElem?_flatMap_of_length_eq length_wordBin _ i hk]
  simp [hi, hk, wordBin]

/-- A string of `16*w` characters is the binary form of `b` when it is so at each word's characters. -/
theorem bin_eq_of_getElem? {b : Blk w} {s : List Char} (length : s.length = 16 * w)
    (chars : ∀ i k, (hi : i < 16) → k < w →
      s[w * i + k]? = some (if b[i].getLsbD (w - 1 - k) then '1' else '0')) : bin b = s := by
  apply List.ext_getElem?'
  intro j hj
  have inside : j < 16 * w := by rw [length_bin, length] at hj; omega
  have pos : 0 < w := by omega
  have word : j / w < 16 := (Nat.div_lt_iff_lt_mul pos).mpr inside
  have char : j % w < w := Nat.mod_lt j pos
  rw [← Nat.div_add_mod j w, getElem?_bin b word char, chars _ _ word char]

/-- The characters of word `i` of a binary form. -/
theorem take_drop_bin (b : Blk w) {i : Nat} (hi : i < 16) :
    ((bin b).drop (w * i)).take w = wordBin b[i] := by
  apply List.ext_getElem?
  intro k
  by_cases hk : k < w
  · rw [List.getElem?_take_of_lt hk, List.getElem?_drop, getElem?_bin b hi hk]
    simp [wordBin, hk]
  · rw [List.getElem?_take_eq_none (by omega), List.getElem?_eq_none (by rw [length_wordBin]; omega)]

theorem binary_of_mem_bin {b : Blk w} {c : Char} (mem : c ∈ bin b) : c = '0' ∨ c = '1' := by
  obtain ⟨x, -, digit⟩ := List.mem_flatMap.mp mem
  obtain ⟨j, -, rfl⟩ := List.mem_map.mp digit
  split
  · exact .inr rfl
  · exact .inl rfl

/-- A binary digit as a word of one bit, so that a string is a numeral of words. -/
def charBit (c : Char) : BitVec 1 := if c = '1' then 1 else 0

theorem binNumeral_eq_foldl_charBit (s : List Char) :
    binNumeral s = (s.map charBit).foldl (fun n x => n * 2 ^ 1 + x.toNat) 0 := by
  rw [List.foldl_map, binNumeral]
  refine List.foldl_ext _ _ _ fun n c _ => ?_
  rw [charBit, Nat.pow_one, Nat.mul_comm]
  split <;> rfl

/-- Bit `length - 1 - k` of a string's numeral is its character `k`. -/
theorem testBit_binNumeral {s : List Char} {k : Nat} (hk : k < s.length) :
    (binNumeral s).testBit (s.length - 1 - k) = decide (s[k] = '1') := by
  have bit := testBit_numeral (s.map charBit) (s.length - 1 - k) 0 (by decide)
    (by rw [List.length_map]; omega)
  have place : s.length - 1 - (s.length - 1 - k) = k := by omega
  simp only [Nat.one_mul, Nat.add_zero, List.length_map, List.getElem_map, place] at bit
  rw [binNumeral_eq_foldl_charBit, bit, charBit]
  by_cases one : s[k] = '1' <;> simp [one]

/-- The value built of a string of length `16*w` (R31). -/
def blkOfBin (w : Nat) (s : List Char) : Blk w :=
  Vector.ofFn fun i => BitVec.ofNat w (binNumeral ((s.drop (w * i.val)).take w))

theorem fromBin_of_length_ne {s : List Char} (length : s.length ≠ 16 * w) :
    fromBin w s = .error (.invalidArgument s.length) := if_pos length

theorem fromBin_of_binary {s : List Char} (length : s.length = 16 * w)
    (binary : ∀ c ∈ s, c = '0' ∨ c = '1') : fromBin w s = .ok (blkOfBin w s) := by
  rw [fromBin, if_neg (not_not.mpr length), if_pos (by simpa using binary), blkOfBin]

theorem fromBin_of_not_binary {s : List Char} (length : s.length = 16 * w)
    (other : ¬ ∀ c ∈ s, c = '0' ∨ c = '1') : fromBin w s = .error .badCharacter := by
  rw [fromBin, if_neg (not_not.mpr length), if_neg (by simpa using other)]

theorem blkOfBin_bin (b : Blk w) : blkOfBin w (bin b) = b := by
  apply Vector.ext
  intro i hi
  have word := foldl_wordBin 0 b[i]
  rw [Nat.zero_mul, Nat.zero_add] at word
  rw [blkOfBin, Vector.getElem_ofFn]
  simp only [take_drop_bin b hi, binNumeral, word, BitVec.ofNat_toNat, BitVec.setWidth_eq]

theorem bin_blkOfBin {s : List Char} (length : s.length = 16 * w)
    (binary : ∀ c ∈ s, c = '0' ∨ c = '1') : bin (blkOfBin w s) = s := by
  refine bin_eq_of_getElem? length fun i k hi hk => ?_
  have word_end : w * i + w ≤ 16 * w := by
    rw [← Nat.mul_succ, Nat.mul_comm 16]
    exact Nat.mul_le_mul_left w hi
  have inside : w * i + k < s.length := by omega
  have chunk : ((s.drop (w * i)).take w).length = w := by
    rw [List.length_take, List.length_drop]; omega
  have bit := testBit_binNumeral (s := (s.drop (w * i)).take w) (k := k) (by omega)
  simp only [chunk, List.getElem_take, List.getElem_drop] at bit
  have in_word : w - 1 - k < w := by omega
  rw [List.getElem?_eq_getElem inside, blkOfBin, Vector.getElem_ofFn, BitVec.getLsbD_ofNat, bit]
  obtain zero | one := binary _ (List.getElem_mem inside)
  · simp [zero]
  · simp [one, in_word]

/-- A string gives a value exactly when it is the value's binary form (R31). -/
theorem fromBin_eq_ok_iff (s : List Char) (b : Blk w) : fromBin w s = .ok b ↔ bin b = s := by
  constructor
  case mpr =>
    rintro rfl
    rw [fromBin_of_binary (length_bin b) fun _ => binary_of_mem_bin, blkOfBin_bin]
  case mp =>
    intro built
    by_cases length : s.length = 16 * w
    · by_cases binary : ∀ c ∈ s, c = '0' ∨ c = '1'
      · rw [fromBin_of_binary length binary] at built
        rw [← Except.ok.inj built, bin_blkOfBin length binary]
      · rw [fromBin_of_not_binary length binary] at built
        cases built
    · rw [fromBin_of_length_ne length] at built
      cases built

end BinaryString

/-- Settles O33, from the three ways construction from a string can end. -/
theorem constructionFromAString : Obligations.ConstructionFromAString := by
  refine ⟨fun s length => fromBin_of_length_ne length, fun s length => fromBin_of_length_ne length,
    fun s b => fromBin_eq_ok_iff s b, fun s h => fromBin_eq_ok_iff s h, ?_⟩
  intro s c length mem not_zero not_one
  exact fromBin_of_not_binary length fun binary => (binary c mem).elim not_zero not_one

section SplitString

/-- Bit `j` of half word `i`: even words are the high halves (R87). -/
theorem getLsbD_halfFrom (b : Block) (first : Nat) {i j : Nat} (hi : i < 16) (hj : j < 16) :
    (halfFrom b first)[i].getLsbD j
      = b[(first + i / 2) % 16].getLsbD (if i % 2 = 0 then 16 + j else j) := by
  rw [halfFrom, Vector.getElem_ofFn]
  split
  · simp [hj]
  · simp [hj]

/-- The binary form of eight words of a Block, cut into half words, is theirs uncut (R87). -/
theorem bin_halfFrom (b : Block) {first : Nat} (hf : first ≤ 8) :
    bin (halfFrom b first) = ((bin b).drop (32 * first)).take 256 := by
  refine bin_eq_of_getElem? ?length fun i k hi hk => ?chars
  case length => rw [List.length_take, List.length_drop, length_bin]; omega
  case chars =>
    have word : (first + i / 2) % 16 = first + i / 2 := by omega
    have place : 32 * first + (16 * i + k) = 32 * (first + i / 2) + (16 * (i % 2) + k) := by omega
    have bit : 32 - 1 - (16 * (i % 2) + k) = if i % 2 = 0 then 16 + (16 - 1 - k) else 16 - 1 - k := by
      split <;> omega
    rw [List.getElem?_take_of_lt (by omega), List.getElem?_drop, place,
      getElem?_bin b (by omega) (by omega), getLsbD_halfFrom b first hi (by omega), bit]
    simp only [word]

end SplitString

/-- Settles O43: both halves' binary forms are the cut string, so construction gives the halves. -/
theorem splitCutsTheBinaryString : Obligations.SplitCutsTheBinaryString := by
  intro b
  refine ⟨(fromBin_eq_ok_iff _ _).mpr (bin_halfFrom b (by decide)), (fromBin_eq_ok_iff _ _).mpr ?_⟩
  have second := bin_halfFrom b (first := 8) le_rfl
  rwa [List.take_of_length_le (by rw [List.length_drop, length_bin])] at second

section ByteString

/-- A word's substitution acts on each of its bytes (R81). -/
theorem wordByte_subWord (P : Params) (x : BitVec 32) {k : Nat} (hk : k < 4) :
    wordByte (subWord P x) k = subByte P (wordByte x k) :=
  wordByte_of_append (fun k => subByte P (wordByte x k)) hk

/-- Byte `k` of word `i` of a Block (R27). -/
theorem getElem?_bytes_block (b : Block) {i k : Nat} (hi : i < 16) (hk : k < 4) :
    (bytes b)[4 * i + k]? = some (wordByte b[i] k) := getElem?_bytes b hi hk

theorem bytes_subBytes (P : Params) (b : Block) :
    bytes (subBytes P b) = (bytes b).map (subByte P) := by
  apply List.ext_getElem?'
  intro j hj
  rw [List.length_map, length_bytes, length_bytes] at hj
  have word : j / 4 < 16 := by omega
  have byte : j % 4 < 4 := Nat.mod_lt j (by decide)
  rw [← Nat.div_add_mod j 4, List.getElem?_map, getElem?_bytes_block b word byte,
    getElem?_bytes_block _ word byte, subBytes, Vector.getElem_map, wordByte_subWord P _ byte,
    Option.map_some]

theorem subByte_of_byte (P : Params) (grain : P.sboxGran = .byte) : subByte P = P.sbox := by
  funext x
  rw [subByte, grain]

end ByteString

/-- Settles O40. -/
theorem subBytesActsOnTheByteString : Obligations.SubBytesActsOnTheByteString := fun P b =>
  ⟨bytes_subBytes P b, fun grain => by rw [bytes_subBytes, subByte_of_byte P grain]⟩

section Streams

/-- Chunks of 64 bytes, one after the other, are the stream up to the last of them. -/
theorem flatMap_range_take_drop (bs : List Byte) (n : Nat) :
    (List.range n).flatMap (fun j => (bs.drop (64 * j)).take 64) = bs.take (64 * n) := by
  induction n with
  | zero => simp
  | succ n ih =>
    rw [List.range_succ, List.flatMap_append, ih, List.flatMap_singleton, Nat.mul_succ, List.take_add]

/-- A whole chunk is the byte form of its Block (R27). -/
theorem bytes_blockOfBytes_of_whole {bs : List Byte} (whole : 64 ≤ bs.length) :
    bytes (blockOfBytes bs) = bs.take 64 := by
  rw [bytes_blockOfBytes, Nat.sub_eq_zero_of_le whole, List.replicate_zero, List.append_nil]

theorem flatMap_bytes_chunks {bs : List Byte} (whole : bs.length % 64 = 0) :
    (chunks bs).flatMap bytes = bs := by
  have count : (bs.length + 63) / 64 = bs.length / 64 := by omega
  have each : ∀ j ∈ List.range (bs.length / 64),
      bytes (blockOfBytes (bs.drop (64 * j))) = (bs.drop (64 * j)).take 64 := by
    intro j mem
    have inside := List.mem_range.mp mem
    exact bytes_blockOfBytes_of_whole (by rw [List.length_drop]; omega)
  rw [chunks, count, List.flatMap_map, List.flatMap_congr each, flatMap_range_take_drop]
  exact List.take_of_length_le (by omega)

end Streams

/-- Settles O59. -/
theorem ciphertextStreamsAreWholeBlocks : Obligations.CiphertextStreamsAreWholeBlocks := fun bs =>
  ⟨fun ragged => if_neg ragged, fun whole => ⟨chunks bs, if_pos whole, flatMap_bytes_chunks whole⟩⟩

/-- Settles O58: the two branches of a draw, exhausted and not. -/
theorem bitCursorStaysInRange : Obligations.BitCursorStaysInRange := by
  intro h g in_range
  by_cases exhausted : g.nextBit = 512
  · have draw : prngGetBit h g = ({ prngAdvance g with nextBit := 1 },
        (num (prngAdvance g).hasher.hashsum).getLsbD (h.bitAt 0).val) := by
      rw [prngGetBit, if_pos exhausted]
      rfl
    rw [draw]
    exact ⟨by change 1 ≤ 512; decide, rfl, fun below => absurd exhausted below.ne, fun _ => ⟨rfl, rfl, rfl⟩⟩
  · have draw : prngGetBit h g = ({ g with nextBit := g.nextBit + 1 },
        (num g.hasher.hashsum).getLsbD (h.bitAt g.nextBit).val) := by
      rw [prngGetBit, if_neg exhausted]
    rw [draw]
    exact ⟨by change g.nextBit + 1 ≤ 512; omega, rfl, fun _ => ⟨rfl, rfl, rfl⟩,
      fun full => absurd full exhausted⟩

end Sys2Proof.Machine
end

section
/-! PROOFS. The one-bit rotations of 40_block_algebra.md section 5: in every word a shift by one that takes in
the bit its neighbour gives up, and on the whole value the same shift round the end. -/

namespace Sys2Proof.Machine

section ShiftsByOne

variable {m : Nat}

/-- A left shift by one leaves bit 0 free for the top bit of `y`: the two do not overlap. -/
theorem toNat_shiftLeft_or (pos : 0 < m) (x y : BitVec m) :
    (x <<< 1 ||| y >>> (m - 1)).toNat = x.toNat * 2 % 2 ^ m + y.toNat / 2 ^ (m - 1) := by
  obtain ⟨n, rfl⟩ : ∃ n, m = n + 1 := ⟨m - 1, by omega⟩
  have top : y.toNat / 2 ^ n < 2 ^ 1 := Nat.div_lt_of_lt_mul (by rw [← Nat.pow_add]; exact y.isLt)
  have even : x.toNat * 2 % 2 ^ (n + 1) = 2 ^ 1 * (x.toNat % 2 ^ n) := by
    rw [Nat.pow_succ, Nat.mul_mod_mul_right, Nat.mul_comm, Nat.pow_one]
  rw [BitVec.toNat_or, BitVec.toNat_shiftLeft, BitVec.toNat_ushiftRight, Nat.shiftLeft_eq,
    Nat.shiftRight_eq_div_pow, Nat.pow_one, Nat.add_sub_cancel, even,
    Nat.two_pow_add_eq_or_of_lt top]

/-- A right shift by one leaves the top bit free for bit 0 of `y`. -/
theorem toNat_shiftRight_or (pos : 0 < m) (x y : BitVec m) :
    (x >>> 1 ||| y <<< (m - 1)).toNat = x.toNat / 2 + y.toNat % 2 * 2 ^ (m - 1) := by
  obtain ⟨n, rfl⟩ : ∃ n, m = n + 1 := ⟨m - 1, by omega⟩
  have low : x.toNat / 2 < 2 ^ n :=
    Nat.div_lt_of_lt_mul (by rw [← Nat.pow_succ']; exact x.isLt)
  have high : y.toNat * 2 ^ n % 2 ^ (n + 1) = 2 ^ n * (y.toNat % 2) := by
    rw [Nat.pow_succ', Nat.mul_mod_mul_right, Nat.mul_comm]
  rw [BitVec.toNat_or, BitVec.toNat_shiftLeft, BitVec.toNat_ushiftRight, Nat.shiftLeft_eq,
    Nat.shiftRight_eq_div_pow, Nat.pow_one, Nat.add_sub_cancel, high, Nat.or_comm,
    ← Nat.two_pow_add_eq_or_of_lt low, Nat.add_comm, Nat.mul_comm]

end ShiftsByOne

section OneBit

variable {w : Nat}

theorem numNat_rotBitsLeft_one (pos : 0 < w) (a : Blk w) :
    numNat (rotBitsLeft 1 a) = numNat a * 2 % 2 ^ (16 * w) + numNat a / 2 ^ (16 * w - 1) := by
  have one : 1 % (16 * w) = 1 := Nat.mod_eq_of_lt (by omega)
  rw [← toNat_num, rotBitsLeft, num_fromNum, BitVec.rotateLeft_def, one,
    toNat_shiftLeft_or (by omega), toNat_num]

theorem numNat_rotBitsRight_one (pos : 0 < w) (a : Blk w) :
    numNat (rotBitsRight 1 a) = numNat a / 2 + numNat a % 2 * 2 ^ (16 * w - 1) := by
  have one : 1 % (16 * w) = 1 := Nat.mod_eq_of_lt (by omega)
  rw [← toNat_num, rotBitsRight, num_fromNum, BitVec.rotateRight_def, one,
    toNat_shiftRight_or (by omega), toNat_num]

/-- Where word `i + 1` ends in the numeral, word `i` begins: places `w` apart (R7). -/
theorem word_place_succ {i : Nat} (hi : i + 1 < 16) : w * (15 - i) = w * (15 - (i + 1)) + w := by
  have one_more : 15 - i = 15 - (i + 1) + 1 := by omega
  rw [one_more, Nat.mul_succ]

theorem word_place_le (i : Nat) : w * (15 - i) ≤ w * 15 := Nat.mul_le_mul_left w (by omega)

/-- Bit `j` of word `i` after a rotation of the whole value (R67, R68). -/
theorem getLsbD_fromNum (n : BitVec (16 * w)) {i j : Nat} (hi : i < 16) (hj : j < w) :
    (fromNum n)[i].getLsbD j = n.getLsbD (w * (15 - i) + j) := by
  rw [getElem_fromNum, BitVec.getLsbD_extractLsb', decide_eq_true hj, Bool.true_and]

/-- Each word moves up by one bit and takes in the top bit of the next word (R67). -/
theorem getElem_rotBitsLeft_one (pos : 0 < w) (a : Blk w) {i : Nat} (hi : i < 16) :
    (rotBitsLeft 1 a)[i] = a[i] <<< 1 ||| a[(i + 1) % 16] >>> (w - 1) := by
  have one : 1 % (16 * w) = 1 := Nat.mod_eq_of_lt (by omega)
  have bound := word_place_le (w := w) i
  apply BitVec.eq_of_getLsbD_eq
  intro j hj
  rw [rotBitsLeft, getLsbD_fromNum _ hi hj, BitVec.getLsbD_rotateLeft, one, BitVec.getLsbD_or,
    BitVec.getLsbD_shiftLeft, BitVec.getLsbD_ushiftRight]
  cases j with
  | succ j =>
    have inside : ¬ w * (15 - i) + (j + 1) < 1 ∧ w * (15 - i) + (j + 1) < 16 * w := by omega
    have place : w * (15 - i) + (j + 1) - 1 = w * (15 - i) + j := by omega
    have above : w ≤ w - 1 + (j + 1) := by omega
    rw [BitVec.getLsbD_of_ge _ _ above]
    simp [inside, place, hj, getLsbD_num a i j hi (by omega)]
  | zero =>
    obtain rfl | earlier : i = 15 ∨ i + 1 < 16 := by omega
    · have wraps : w * (15 - 15) + 0 < 1 := by simp
      have last : 16 * w - 1 + (w * (15 - 15) + 0) = w * (15 - 0) + (w - 1) := by omega
      rw [decide_eq_true wraps, cond_true, last, getLsbD_num a 0 (w - 1) (by decide) (by omega)]
      simp
    · have next := word_place_succ (w := w) earlier
      have stays : ¬ w * (15 - i) + 0 < 1 := by omega
      have inside : w * (15 - i) + 0 < 16 * w := by omega
      have place : w * (15 - i) + 0 - 1 = w * (15 - (i + 1)) + (w - 1) := by omega
      have word : (i + 1) % 16 = i + 1 := Nat.mod_eq_of_lt earlier
      rw [decide_eq_false stays, cond_false, decide_eq_true inside, Bool.true_and, place,
        getLsbD_num a (i + 1) (w - 1) earlier (by omega)]
      simp [word]

/-- Each word moves down by one bit and takes in bit 0 of the previous word at the top (R68). -/
theorem getElem_rotBitsRight_one (pos : 0 < w) (a : Blk w) {i : Nat} (hi : i < 16) :
    (rotBitsRight 1 a)[i] = a[i] >>> 1 ||| a[(i + 15) % 16] <<< (w - 1) := by
  have one : 1 % (16 * w) = 1 := Nat.mod_eq_of_lt (by omega)
  have bound := word_place_le (w := w) i
  apply BitVec.eq_of_getLsbD_eq
  intro j hj
  rw [rotBitsRight, getLsbD_fromNum _ hi hj, BitVec.getLsbD_rotateRight, one, BitVec.getLsbD_or,
    BitVec.getLsbD_shiftLeft, BitVec.getLsbD_ushiftRight]
  obtain below | top : j + 1 < w ∨ j + 1 = w := by omega
  · have inside : w * (15 - i) + j < 16 * w - 1 := by omega
    have place : 1 + (w * (15 - i) + j) = w * (15 - i) + (1 + j) := by omega
    have not_top : j < w - 1 := by omega
    simp [inside, place, not_top, getLsbD_num a i (1 + j) hi (by omega)]
  · have at_top : j = w - 1 := by omega
    have above : w ≤ 1 + j := by omega
    rw [BitVec.getLsbD_of_ge _ _ above]
    cases i with
    | zero =>
      have wraps : ¬ w * (15 - 0) + j < 16 * w - 1 := by omega
      have inside : w * (15 - 0) + j < 16 * w := by omega
      have place : w * (15 - 0) + j - (16 * w - 1) = w * (15 - 15) + 0 := by omega
      rw [decide_eq_false wraps, cond_false, decide_eq_true inside, Bool.true_and, place,
        getLsbD_num a 15 0 (by decide) pos]
      simp [at_top, pos]
    | succ i =>
      have next := word_place_succ (w := w) hi
      have earlier := word_place_le (w := w) i
      have inside : w * (15 - (i + 1)) + j < 16 * w - 1 := by omega
      have place : 1 + (w * (15 - (i + 1)) + j) = w * (15 - i) + 0 := by omega
      have word : (i + 1 + 15) % 16 = i := by omega
      rw [decide_eq_true inside, cond_true, place, getLsbD_num a i 0 (by omega) pos]
      simp [at_top, pos, word]

end OneBit

/-- Settles O38: two shifts that do not overlap, in every word and on the whole value. -/
theorem bitRotationsMoveOneBit : Obligations.BitRotationsMoveOneBit := by
  intro w a pos
  refine ⟨fun i hi => ⟨?left, ?right⟩, numNat_rotBitsLeft_one pos a, numNat_rotBitsRight_one pos a⟩
  case left => rw [getElem_rotBitsLeft_one pos a hi, toNat_shiftLeft_or pos]
  case right => rw [getElem_rotBitsRight_one pos a hi, toNat_shiftRight_or pos]

end Sys2Proof.Machine
end

section
/-! PROOFS. More of the datapath: relations among the rotations and the one-bit rotations word by word
(40_block_algebra.md sections 4 and 5), the matrix product (section 3), and Expand and Reduce
(41_sbox_expand_reduce.md sections 2 and 3). -/

namespace Sys2Proof.Machine

section RotationLaws

variable {w : Nat}

theorem getElem_iterate_rotCellsLeft (n k : Nat) (a : Blk w) (i : Nat) (hi : i < 16) :
    ((rotCellsLeft n)^[k] a)[i] = a[(i + k * n) % 16] := by
  induction k generalizing i with
  | zero => simp [Nat.mod_eq_of_lt hi]
  | succ k ih =>
    have place : ((i + n) % 16 + k * n) % 16 = (i + (k + 1) * n) % 16 := by
      rw [Nat.mod_add_mod, Nat.succ_mul]; congr 1; omega
    rw [Function.iterate_succ_apply', getElem_rotCellsLeft, ih]
    simp only [place]

theorem getElem_iterate_rotCellsRight (n k : Nat) (a : Blk w) (i : Nat) (hi : i < 16) :
    ((rotCellsRight n)^[k] a)[i] = a[(i + k * (15 * n)) % 16] := by
  have same : rotCellsRight (w := w) n = rotCellsLeft (15 * n) := rfl
  rw [same, getElem_iterate_rotCellsLeft]

/-- A column is four cells, so four cell rotations are a column rotation (R69 (a)). -/
theorem rotColsLeft_eq_iterate (n : Nat) (a : Blk w) : rotColsLeft n a = (rotCellsLeft n)^[4] a :=
  Vector.ext fun i hi => by
    have place : 4 * ((i / 4 + n) % 4) + i % 4 % 4 = (i + 4 * n) % 16 := by omega
    simp only [rotColsLeft, getElem_ofCells, cell, getElem_iterate_rotCellsLeft, place]

theorem rotColsRight_eq_iterate (n : Nat) (a : Blk w) : rotColsRight n a = (rotCellsRight n)^[4] a :=
  Vector.ext fun i hi => by
    have place : 4 * ((i / 4 + 3 * n) % 4) + i % 4 % 4 = (i + 4 * (15 * n)) % 16 := by omega
    simp only [rotColsRight, getElem_ofCells, cell, getElem_iterate_rotCellsRight, place]

/-- A rotation that moves whole words: each word of the result is one word of the operand, the same for all
operands. -/
def MovesWords (rot : Blk w → Blk w) : Prop :=
  ∃ src : Fin 16 → Fin 16, ∀ a (i : Fin 16), (rot a)[i] = a[src i]

/-- What moves whole words passes through every operation made word by word (R69 (c)). -/
theorem MovesWords.zipWith {rot : Blk w → Blk w} (moves : MovesWords rot)
    (f : BitVec w → BitVec w → BitVec w) (a b : Blk w) :
    rot (Vector.zipWith f a b) = Vector.zipWith f (rot a) (rot b) := by
  obtain ⟨src, word⟩ := moves
  apply Vector.ext
  intro i hi
  have moved (x : Blk w) : (rot x)[i] = x[(src ⟨i, hi⟩).val] := word x ⟨i, hi⟩
  rw [moved, Vector.getElem_zipWith, Vector.getElem_zipWith, moved, moved]

theorem movesWords_ofFn (src : Fin 16 → Fin 16) :
    MovesWords fun a : Blk w => Vector.ofFn fun i => a[src i] :=
  ⟨src, fun a i => by simp⟩

theorem movesWords_ofCells (row col : Nat → Nat) :
    MovesWords fun a : Blk w => ofCells fun r c => cell a (row r) (col c) :=
  ⟨fun i => ⟨4 * (col (i / 4) % 4) + row (i % 4) % 4, by omega⟩, fun a i => getElem_ofCells _ _ i.isLt⟩

/-- The six word rotations move whole words (R61 to R66). -/
theorem movesWords_of_mem (n : Nat) {rot : Blk w → Blk w}
    (mem : rot ∈ [rotRowsUp n, rotRowsDown n, rotColsLeft n, rotColsRight n, rotCellsLeft n,
      rotCellsRight n]) : MovesWords rot := by
  simp only [List.mem_cons, List.not_mem_nil, or_false] at mem
  obtain rfl | rfl | rfl | rfl | rfl | rfl := mem
  · exact movesWords_ofCells (· + n) id
  · exact movesWords_ofCells (· + 3 * n) id
  · exact movesWords_ofCells id (· + n)
  · exact movesWords_ofCells id (· + 3 * n)
  · exact movesWords_ofFn fun i => ⟨(i.val + n) % 16, by omega⟩
  · exact movesWords_ofFn fun i => ⟨(i.val + 15 * n) % 16, by omega⟩

/-- Rotating bits and taking the exclusive or bit by bit pass through each other. -/
theorem rotateLeft_xor {m : Nat} (x y : BitVec m) (n : Nat) :
    (x ^^^ y).rotateLeft n = x.rotateLeft n ^^^ y.rotateLeft n := by
  ext i hi
  simp only [BitVec.getElem_rotateLeft, BitVec.getElem_xor]
  split <;> rfl

theorem rotateRight_xor {m : Nat} (x y : BitVec m) (n : Nat) :
    (x ^^^ y).rotateRight n = x.rotateRight n ^^^ y.rotateRight n := by
  ext i hi
  simp only [BitVec.getElem_rotateRight, BitVec.getElem_xor]
  split <;> rfl

/-- The exclusive or of the whole values, put back into words (R57). -/
theorem fromNum_xor (x y : BitVec (16 * w)) : fromNum (x ^^^ y) = blkXor (fromNum x) (fromNum y) := by
  rw [← fromNum_num (blkXor (fromNum x) (fromNum y)), num_blkXor, num_fromNum, num_fromNum]

theorem rotBitsLeft_blkXor (n : Nat) (a b : Blk w) :
    rotBitsLeft n (blkXor a b) = blkXor (rotBitsLeft n a) (rotBitsLeft n b) := by
  rw [rotBitsLeft, num_blkXor, rotateLeft_xor, fromNum_xor]
  rfl

theorem rotBitsRight_blkXor (n : Nat) (a b : Blk w) :
    rotBitsRight n (blkXor a b) = blkXor (rotBitsRight n a) (rotBitsRight n b) := by
  rw [rotBitsRight, num_blkXor, rotateRight_xor, fromNum_xor]
  rfl

end RotationLaws

/-- Settles O37: the word rotations move whole words, the bit rotations act on the whole value. -/
theorem rotationRelations : Obligations.RotationRelations := fun _ n a b =>
  ⟨rotColsLeft_eq_iterate n a, rotColsRight_eq_iterate n a,
    fun _ mem =>
      have moves := movesWords_of_mem n mem
      ⟨moves.zipWith _ a b, moves.zipWith _ a b, moves.zipWith _ a b⟩,
    rotBitsLeft_blkXor n a b, rotBitsRight_blkXor n a b⟩

section MatrixProduct

variable {w : Nat}

theorem getElem_mmul (a b : Blk w) (i : Nat) (hi : i < 16) :
    (mmul a b)[i] = BitVec.ofNat w
      (((List.range 4).map fun k => (cell a (i % 4) k).toNat * (cell b k (i / 4)).toNat).sum) := by
  rw [mmul, getElem_ofCells]
  simp [cellProduct, List.range_succ, Nat.add_assoc]

theorem cell_blkAdd (a b : Blk w) (r c : Nat) :
    cell (blkAdd a b) r c = cell a r c + cell b r c := by
  simp [cell]

theorem cell_blkId (r c : Nat) : cell (blkId w) r c = if r % 4 = c % 4 then 1 else 0 := by
  rw [blkId, cell_ofCells]
  rfl

theorem mmul_id (a : Blk w) : mmul a (blkId w) = a :=
  blk_ext_cell fun r _ c hc => by
    rw [cell_mmul]
    interval_cases c <;> simp [cell_blkId]

theorem id_mmul (a : Blk w) : mmul (blkId w) a = a :=
  blk_ext_cell fun r hr c _ => by
    rw [cell_mmul]
    interval_cases r <;> simp [cell_blkId]

theorem mmul_assoc (a b c : Blk w) : mmul (mmul a b) c = mmul a (mmul b c) :=
  blk_ext_cell fun r _ k _ => by
    simp only [cell_mmul]
    ring

theorem blkAdd_mmul (a b c : Blk w) : mmul (blkAdd a b) c = blkAdd (mmul a c) (mmul b c) :=
  blk_ext_cell fun r _ k _ => by
    simp only [cell_mmul, cell_blkAdd]
    ring

theorem mmul_blkAdd (a b c : Blk w) : mmul a (blkAdd b c) = blkAdd (mmul a b) (mmul a c) :=
  blk_ext_cell fun r _ k _ => by
    simp only [cell_mmul, cell_blkAdd]
    ring

/-- The matrix with a one in word `i` and zeros elsewhere. -/
def unitBlock (i : Fin 16) : Block := (blkZero 32).set i 1#32

theorem cell_unitBlock (i : Fin 16) (r c : Nat) :
    cell (unitBlock i) r c = if i.val = 4 * (c % 4) + r % 4 then 1 else 0 := by
  rw [cell, unitBlock, Vector.getElem_set, getElem_blkZero]
  rfl

/-- Word 4 is cell `(0, 1)` and word 1 is cell `(1, 0)`: their product is one at `(0, 0)` in one order and
at `(1, 1)` in the other (R60). -/
theorem mmul_unitBlock_not_comm :
    mmul (unitBlock 4) (unitBlock 1) ≠ mmul (unitBlock 1) (unitBlock 4) := by
  intro same
  have corner := congrArg (cell · 0 0) same
  simp [cell_mmul, cell_unitBlock] at corner

theorem unitBlock_ne_zero : unitBlock 1 ≠ blkZero 32 := by
  intro same
  have corner := congrArg (cell · 1 0) same
  simp [cell_unitBlock] at corner

end MatrixProduct

/-- Settles O39: the laws cell by cell in `BitVec w`; two unit matrices do not commute, and every left
factor gives zero with zero. -/
theorem matrixProductLaws : Obligations.MatrixProductLaws := by
  refine ⟨fun w a b c => ⟨getElem_mmul a b, mmul_id a, id_mmul a, mmul_zero a, zero_mmul a,
    mmul_assoc a b c, blkAdd_mmul a b c, mmul_blkAdd a b c⟩,
    ⟨unitBlock 4, unitBlock 1, mmul_unitBlock_not_comm⟩,
    ⟨unitBlock 1, blkZero 32, blkZero 32, unitBlock_ne_zero, ?_⟩⟩
  rw [mmul_zero, mmul_zero]

section ExpandReduce

variable {w : Nat}

theorem zeroExtend_zero : zeroExtend (blkZero w) = blkZero 32 :=
  Vector.ext fun i hi => by
    rw [zeroExtend, Vector.getElem_map, getElem_blkZero, getElem_blkZero]
    exact BitVec.setWidth_zero ..

theorem expandStep_zero (P : Params) : expandStep P (blkZero 32) = blkZero 32 := zero_mmul _

/-- Zero is kept by every turn of the loop, however many there are (R82). -/
theorem expand_zero (P : Params) : expand P (blkZero w) = blkZero 32 := by
  rw [expand, zeroExtend_zero, Function.iterate_fixed (expandStep_zero P)]

/-- Where all words are equal, so are all words of the product. -/
theorem mmul_replicate (x y : BitVec w) :
    mmul (Vector.replicate 16 x) (Vector.replicate 16 y) = Vector.replicate 16 (4 * (x * y)) :=
  blk_ext_cell fun r _ c _ => by
    rw [cell_mmul]
    simp only [cell, Vector.getElem_replicate]
    ring

theorem rotBitsRight_one_replicate (pos : 0 < w) (x : BitVec w) :
    rotBitsRight 1 (Vector.replicate 16 x) = Vector.replicate 16 (x >>> 1 ||| x <<< (w - 1)) :=
  Vector.ext fun i hi => by
    rw [getElem_rotBitsRight_one pos _ hi]
    simp only [Vector.getElem_replicate]

theorem expandStep_replicate (x : BitVec 32) :
    expandStep Config.device (Vector.replicate 16 x)
      = Vector.replicate 16 ((4 : BitVec 32) * (x * (x >>> 1 ||| x <<< (32 - 1)))) := by
  rw [expandStep, rotBits, rotBitsRight_one_replicate (by decide), mmul_replicate]

/-- Words of one high bit double out: after two products every word is zero modulo `2^32`. -/
theorem expand_high_bits : expand Config.device (Vector.replicate 16 0x8000#16) = blkZero 32 := by
  have extended : zeroExtend (Vector.replicate 16 0x8000#16) = Vector.replicate 16 0x8000#32 :=
    Vector.map_replicate
  rw [expand, extended, Function.iterate_succ_apply, Function.iterate_succ_apply, expandStep_replicate,
    expandStep_replicate]
  exact Function.iterate_fixed (expandStep_zero Config.device) 1

end ExpandReduce

/-- Settles O41: zero and the words of one high bit have one expansion. -/
theorem expansionLoopsThreeTimes : Obligations.ExpansionLoopsThreeTimes := by
  refine ⟨fun h => rfl, fun P w => expand_zero P, Vector.replicate 16 0x8000#16, blkZero 16, ?differ, ?same⟩
  case differ =>
    intro same
    have first := congrArg (·[0]) same
    simp at first
  case same => rw [expand_high_bits, expand_zero]

section Reduction

/-- On the device the remainder of a word is its low half (R84; D13). -/
theorem getElem_reduce (sbox : Byte → Byte) (b : Block) (i : Nat) (hi : i < 16) :
    (reduce (Config.decided sbox) b : Halfblock)[i] = b[i].setWidth 16 := by
  rw [reduce, Vector.getElem_map]
  apply BitVec.eq_of_toNat_eq
  rw [BitVec.toNat_ofNat, BitVec.toNat_setWidth]
  exact Nat.mod_mod _ _

theorem cell_reduce (sbox : Byte → Byte) (b : Block) (r c : Nat) :
    cell (reduce (Config.decided sbox) b : Halfblock) r c = (cell b r c).setWidth 16 :=
  getElem_reduce sbox b _ _

theorem reduce_zeroExtend (sbox : Byte → Byte) (h : Halfblock) :
    reduce (Config.decided sbox) (zeroExtend h) = h :=
  Vector.ext fun i hi => by
    rw [getElem_reduce, zeroExtend, Vector.getElem_map]
    simp

theorem reduce_blkAdd (sbox : Byte → Byte) (a b : Block) :
    (reduce (Config.decided sbox) (blkAdd a b) : Halfblock)
      = blkAdd (reduce (Config.decided sbox) a) (reduce (Config.decided sbox) b) :=
  blk_ext_cell fun r _ c _ => by
    simp only [cell_reduce, cell_blkAdd]
    exact BitVec.setWidth_add _ _ (by decide)

theorem reduce_mmul (sbox : Byte → Byte) (a b : Block) :
    (reduce (Config.decided sbox) (mmul a b) : Halfblock)
      = mmul (reduce (Config.decided sbox) a) (reduce (Config.decided sbox) b) :=
  blk_ext_cell fun r _ c _ => by
    simp only [cell_reduce, cell_mmul]
    have small : 16 ≤ 32 := by decide
    simp only [BitVec.setWidth_add _ _ small, BitVec.setWidth_mul _ _ small]

end Reduction

/-- Settles O42: truncation is a homomorphism in every word. -/
theorem reductionLaws : Obligations.ReductionLaws := by
  refine ⟨fun b i hi => ?low, reduce_zeroExtend Config.sbox,
    fun a b => ⟨reduce_blkAdd Config.sbox a b, reduce_mmul Config.sbox a b⟩⟩
  case low => rw [getElem_reduce, BitVec.setWidth_eq_extractLsb' (by decide)]

end Sys2Proof.Machine
end

section
/-! PROOFS. The schedule step by step (42_key_schedule.md R90, R91), the corners of the round function and the
all-zero key (43_feistel_network.md section 2, R92), and the reset state (R20, R170). -/

namespace Sys2Proof.Machine

theorem keySchedule_succ (P : Params) (seed : Key) (i : Nat) (hi : i + 1 < 64) :
    (keySchedule P seed)[i + 1] = schedStep P (keySchedule P seed)[i] := by
  rw [getElem_keySchedule, getElem_keySchedule, Function.iterate_succ_apply']

/-- Settles O45: the schedule iterates `SchedStep`, whose loop turns three times. -/
theorem scheduleStepsFromTheSeed : Obligations.ScheduleStepsFromTheSeed := by
  intro P seed
  refine ⟨keySchedule_first P seed, fun i hi pos => ?_⟩
  obtain ⟨k, rfl⟩ := Nat.exists_eq_succ_of_ne_zero (Nat.one_le_iff_ne_zero.mp pos)
  exact keySchedule_succ P seed k hi

section ZeroOperands

variable {w : Nat}

theorem rotRowsUp_zero (n : Nat) : rotRowsUp n (blkZero w) = blkZero w :=
  blk_ext_cell fun r _ c _ => by rw [cell_rotRowsUp, cell_blkZero, cell_blkZero]

theorem rotColsLeft_zero (n : Nat) : rotColsLeft n (blkZero w) = blkZero w :=
  blk_ext_cell fun r _ c _ => by rw [cell_rotColsLeft, cell_blkZero, cell_blkZero]

/-- Zero is the exclusive or of a value with itself, and the rotation passes through it. -/
theorem rotBitsLeft_zero (n : Nat) : rotBitsLeft n (blkZero w) = blkZero w := by
  rw [← blkXor_self (blkZero w), rotBitsLeft_blkXor, blkXor_self, blkXor_self]

theorem reduce_zero (P : Params) : (reduce P (blkZero 32) : Blk w) = blkZero w :=
  Vector.ext fun i hi => by
    rw [reduce, Vector.getElem_map, getElem_blkZero, getElem_blkZero]
    simp

/-- The last step of `F` is a product by its operand (R98). -/
theorem roundF_zero (P : Params) (k : Key) : roundF P (blkZero w) k = blkZero w := mmul_zero _

/-- Under the zero key the first product of `F` is zero, whatever the operand (R98). -/
theorem roundF_zero_key (P : Params) (m : Blk w) :
    roundF P m (blkZero 32) = mmul (reduce P (subBytes P (blkZero 32))) m := by
  rw [roundF, mmul_zero, rotBitsLeft_zero]

theorem subWord_zero (sbox : Byte → Byte) :
    subWord (Config.decided sbox) 0 = (sbox 0#8 ++ sbox 0#8 ++ sbox 0#8 ++ sbox 0#8 : BitVec 32) := rfl

/-- The low half of four equal bytes is two of them. -/
theorem setWidth_four_bytes (x : Byte) :
    (x ++ x ++ x ++ x : BitVec 32).setWidth 16 = (x ++ x : BitVec 16) := by
  apply BitVec.eq_of_getLsbD_eq
  intro j hj
  have low : j < 8 ∨ (¬ j < 8 ∧ j - 8 < 8) := by omega
  obtain low | ⟨high, low⟩ := low
  · simp only [BitVec.getLsbD_setWidth, BitVec.getLsbD_append, hj, low, decide_true, Bool.true_and, if_true]
  · simp only [BitVec.getLsbD_setWidth, BitVec.getLsbD_append, hj, high, low, decide_true, Bool.true_and,
      if_false, if_true]

/-- With byte entries every half word of the substituted zero Block is `SBOX[0]` twice (R81, R84). -/
theorem reduce_subBytes_zero (sbox : Byte → Byte) :
    (reduce (Config.decided sbox) (subBytes (Config.decided sbox) (blkZero 32)) : Halfblock)
      = Vector.replicate 16 (sbox 0#8 ++ sbox 0#8 : BitVec 16) :=
  Vector.ext fun i hi => by
    rw [getElem_reduce, subBytes, Vector.getElem_map, getElem_blkZero, Vector.getElem_replicate,
      subWord_zero, setWidth_four_bytes]

end ZeroOperands

/-- Settles O51, from the two corners of `F`. -/
theorem roundFunctionCorners : Obligations.RoundFunctionCorners := by
  refine ⟨fun P w k => roundF_zero P k, fun sbox m => ?_⟩
  rw [roundF_zero_key, reduce_subBytes_zero]

section ZeroKeyRun

variable {w : Nat}

/-- All three halves zero. -/
def zeroHalves (w : Nat) : Halves w := { l := blkZero w, r := blkZero w, t := blkZero w }

theorem avalanche_zero (P : Params) : avalanche P (blkZero w) (blkZero 32) = blkZero w := by
  rw [avalanche_eq, rotRowsUp_zero, rotCellsRight_zero, rotBitsLeft_zero, rotColsLeft_zero, reduce_zero,
    blkAdd_zero]

theorem encRound_zero (P : Params) : encRound P (zeroHalves w) (blkZero 32) = zeroHalves w := by
  simp only [encRound, zeroHalves, roundF_zero, avalanche_zero, blkXor_zero]

/-- The zero keyset keeps the zero halves through all rounds (R100, R101). -/
theorem rounds_zero (P : Params) : rounds P zeroKeyset .encipher (zeroHalves w) = zeroHalves w := by
  have keys : roundKeys zeroKeyset .encipher = List.replicate 64 (blkZero 32) := Vector.toList_replicate
  rw [rounds, keys]
  refine List.foldlRecOn (motive := (· = zeroHalves w)) _ _ rfl fun h zero k mem => ?_
  rw [zero, List.eq_of_mem_replicate mem]
  exact encRound_zero P

theorem halfFrom_zero (first : Nat) : halfFrom (blkZero 32) first = blkZero 16 :=
  Vector.ext fun i hi => by
    rw [halfFrom, Vector.getElem_ofFn, getElem_blkZero, getElem_blkZero]
    split <;> rfl

theorem split_zero : split (blkZero 32) = (blkZero 16, blkZero 16) :=
  Prod.ext (halfFrom_zero 0) (halfFrom_zero 8)

theorem combine_zero : combine (blkZero 16) (blkZero 16) = blkZero 32 := by
  have undone := combine_split (blkZero 32)
  rwa [split_zero] at undone

theorem loadHalves_zero (sbox : Byte → Byte) :
    loadHalves (Config.decided sbox) (blkZero 32) = zeroHalves 16 := by
  have halves : (Config.decided sbox).splitLayout.split (blkZero 32) = (blkZero 16, blkZero 16) :=
    split_zero
  rw [loadHalves, halves]
  rfl

theorem run_zero (sbox : Byte → Byte) :
    run (Config.decided sbox) zeroKeyset (blkZero 32) .encipher = (blkZero 32, zeroKeyset) := by
  refine Prod.ext ?block ?keyset
  case keyset => rw [run_keyset, getElem_zeroKeyset, keySchedule_zero]
  case block =>
    rw [run, loadHalves_zero, rounds_zero]
    exact combine_zero

end ZeroKeyRun

/-- Settles O47. -/
theorem allZeroKeyStaysZero : Obligations.AllZeroKeyStaysZero := by
  intro sbox
  refine ⟨schedStep_zero _, keySchedule_zero _, run_zero sbox, ?iv⟩
  case iv => rw [ivOf, keySchedule_zero, run_zero]

/-- Settles O1. -/
theorem resetLeavesEveryBitZero : Obligations.ResetLeavesEveryBitZero := by
  have word (v : Nat) {j : Nat} (hj : j < 16) : (blkZero v)[j] = 0#v := getElem_blkZero j hj
  refine ⟨fun i j hi hj => ?keys, fun j hj => ?blocks, rfl, rfl, rfl, rfl⟩
  case keys =>
    simp only [reset_ks, reset_tks, getElem_zeroKeyset, word 32 hj, and_self]
  case blocks =>
    simp only [reset_last, reset_seed, reset_halves, Halves.zero, word 32 hj, word 16 hj, and_self]

end Sys2Proof.Machine
end
